-- ==== Sys2Proof/Word.lean ====
section
/-! DEFINITION. The plain data types of the block: bytes, byte strings (R10) and the 4-byte frame tag (R22). -/

namespace Sys2Proof

/-- A byte, a u8 (R10). -/
abbrev Byte := BitVec 8

/-- A 16-bit command word (R18, R72). -/
abbrev CommandWord := BitVec 16

/-- A byte string: a finite sequence of bytes, byte `i` at position `i` (R10). The two buffers are byte strings
(R20, R21, D32), so a position in the list is the byte's offset in its address space (R41). -/
abbrev Bytes := List Byte

/-- A 4-byte string: the type of HDR.FTT and of FRAME_TYPE_TAG (R7, R22). It is a string and not an integer. -/
structure Tag where
  b0 : Byte
  b1 : Byte
  b2 : Byte
  b3 : Byte
deriving DecidableEq, Repr

end Sys2Proof
end

