-- ==== Sys2Proof/Config.lean ====
section
/-! DEFINITION. The constants the spec fixes (R6, R8) and the parameters it leaves open (R7). -/

namespace Sys2Proof

namespace Config

/-- HDR_LEN: byte length of the common header (R6). -/
abbrev hdrLen : Nat := 64

/-- PART_LEN: byte length of a ParticipationHeader-based frame (R6). -/
abbrev partLen : Nat := 96

/-- NAME_LEN: byte length of each participation name field (R6). -/
abbrev nameLen : Nat := 10

/-- PAD_BYTE: ASCII space, the right-pad byte of a name field (R6). -/
abbrev padByte : Byte := 0x20#8

/-- PART_RSV_LEN: byte length of the participation reserved trailer (R6). -/
abbrev partRsvLen : Nat := 2

/-- NET_PREFIX: OR-ed with a node number to form SA and DA (R6). -/
abbrev netPrefix : BitVec 32 := 0x00010000#32

/-- TYPECODE_BASE: the base of the type-code range (R6). -/
abbrev typecodeBase : Nat := 65000

/-- MAX_PAYLOAD_LEN: the largest Cyclic payload a constructor accepts (R8). -/
abbrev maxPayloadLen : Nat := 65471

end Config

/-- The parameters the spec leaves open: "A model takes each as an argument of its configuration" (R7). They are fixed
for the life of an instance (R36). -/
structure Config where
  frameTypeTag : Tag
  typecodeToken : BitVec 16
  typecodeTrigger : BitVec 16
  typecodePreq : BitVec 16
  typecodeCyclic : BitVec 16
  maxBufLen : Nat
deriving DecidableEq, Repr

/-- The artificial test configuration of D35 (95_test_vectors.md section 0): "These are not the hardware's values."
DESIGN CHOICE, unsafe (notes/assumptions/1.md): the configuration `State.reset` carries. -/
def Config.artificialTest : Config where
  frameTypeTag := ⟨0x54#8, 0x45#8, 0x53#8, 0x54#8⟩
  typecodeToken := 0xFDE8#16
  typecodeTrigger := 0xFDE9#16
  typecodePreq := 0xFDEA#16
  typecodeCyclic := 0xFDEB#16
  maxBufLen := 65536

end Sys2Proof
end

