-- ==== Sys2Proof/Syntax.lean ====
section
/-! DEFINITION. The 21 operations of the block (R73), one constructor per row of spec/opcode_table.json. -/

namespace Sys2Proof

/-- An operation. Its registers are fixed by its rule and not encoded (R78, R82); the five encode operations alone
carry an operand, the allocate bit A of the command word (R74). -/
inductive Instr where
  /-- PACK_CTL (R84). -/
  | packCtl
  /-- PACK_MODE (R85). -/
  | packMode
  /-- MAKE_ADDR (R86). -/
  | makeAddr
  /-- UNPACK_CTL (R87). -/
  | unpackCtl
  /-- UNPACK_MODE (R88). -/
  | unpackMode
  /-- HDR_ENC (R92). -/
  | hdrEnc (a : Bool)
  /-- HDR_DEC (R93). -/
  | hdrDec
  /-- FIT10 (R101). -/
  | fit10
  /-- MK_TOKEN (R103). -/
  | mkToken
  /-- MK_TRIG (R104). -/
  | mkTrig
  /-- MK_PREQ (R105). -/
  | mkPreq
  /-- MK_CYC (R106). -/
  | mkCyc
  /-- TOKEN_ENC (R107). -/
  | tokenEnc (a : Bool)
  /-- TOKEN_DEC (R108). -/
  | tokenDec
  /-- TRIG_ENC (R111). -/
  | trigEnc (a : Bool)
  /-- TRIG_DEC (R112). -/
  | trigDec
  /-- PREQ_ENC (R113). -/
  | preqEnc (a : Bool)
  /-- PREQ_DEC (R114). -/
  | preqDec
  /-- CYC_ENC (R115). -/
  | cycEnc (a : Bool)
  /-- CYC_DEC (R116). -/
  | cycDec
  /-- PARSE (R128). -/
  | parse
deriving DecidableEq, Repr

end Sys2Proof
end

