-- ==== Sys2Proof/WellFormed.lean ====
section
/-! DEFINITION. What the spec requires of a configuration (R7) and of a command word (R75), as decidable checks. Every
term of `Instr` is well formed by construction: only the five encodes have an A bit (R74). -/

namespace Sys2Proof

/-- Each byte of FRAME_TYPE_TAG is one ASCII byte, 0x00..0x7F (R7). -/
def Config.tagIsAscii (c : Config) : Bool :=
  c.frameTypeTag.b0 ≤ 0x7F#8 && c.frameTypeTag.b1 ≤ 0x7F#8 &&
    c.frameTypeTag.b2 ≤ 0x7F#8 && c.frameTypeTag.b3 ≤ 0x7F#8

/-- A type code lies in 65000..65535; the upper bound is its u16 type (R7). -/
def Config.codeInRange (v : BitVec 16) : Bool := Config.typecodeBase ≤ v.toNat

/-- The four type codes lie in their range (R7). -/
def Config.codesInRange (c : Config) : Bool :=
  Config.codeInRange c.typecodeToken && Config.codeInRange c.typecodeTrigger &&
    Config.codeInRange c.typecodePreq && Config.codeInRange c.typecodeCyclic

/-- The dispatch table is unambiguous: TYPECODE_TRIGGER != TYPECODE_TOKEN (R7, R127). -/
def Config.dispatchUnambiguous (c : Config) : Bool := c.typecodeTrigger != c.typecodeToken

/-- A ParticipationRequest has a distinct type code: TYPECODE_PREQ != TYPECODE_TRIGGER (R7). -/
def Config.preqDistinct (c : Config) : Bool := c.typecodePreq != c.typecodeTrigger

/-- MAX_BUF_LEN >= 96 (R7). -/
def Config.bufferHoldsFixedFrames (c : Config) : Bool := Config.partLen ≤ c.maxBufLen

/-- A configuration that meets every constraint of R7. One that breaks a constraint is refused (R127, R157). -/
def Config.legal (c : Config) : Bool :=
  c.tagIsAscii && c.codesInRange && c.dispatchUnambiguous && c.preqDistinct && c.bufferHoldsFixedFrames

/-- R75 item 2: the unassigned OP values, range by range as the rule lists them. -/
def opUnassigned (op : Nat) : Bool :=
  op == 0x00 || (0x06 ≤ op && op ≤ 0x0F) || (0x12 ≤ op && op ≤ 0x1F) || (0x25 ≤ op && op ≤ 0x2F) ||
    (0x38 ≤ op && op ≤ 0x3F) || (0x41 ≤ op && op ≤ 0xFF)

/-- The OP values of the five encode operations, the only ones whose A bit may be 1 (R74). -/
def opIsEncode (op : Nat) : Bool :=
  op == 0x10 || op == 0x30 || op == 0x32 || op == 0x34 || op == 0x36

/-- R75: none of the three conditions that make a command word illegal holds. Written from the rule's text and not from
the decoder, which is held against it. -/
def commandLegal (w : CommandWord) : Bool :=
  let op := w.toNat % 256
  w.toNat / 512 == 0 && !opUnassigned op && !(w.toNat / 256 % 2 == 1 && !opIsEncode op)

/-- An operation with its A bit, as R74 allows it: A is an operand of the five encodes only. -/
def Instr.allocateBit : Instr → Bool
  | .hdrEnc a => a
  | .tokenEnc a => a
  | .trigEnc a => a
  | .preqEnc a => a
  | .cycEnc a => a
  | .packCtl => false
  | .packMode => false
  | .makeAddr => false
  | .unpackCtl => false
  | .unpackMode => false
  | .hdrDec => false
  | .fit10 => false
  | .mkToken => false
  | .mkTrig => false
  | .mkPreq => false
  | .mkCyc => false
  | .tokenDec => false
  | .trigDec => false
  | .preqDec => false
  | .cycDec => false
  | .parse => false

end Sys2Proof
end

