-- ==== Sys2Proof/Decode.lean ====
section
/-! DEFINITION. The command word (format CMD16, R72): the decoder, total on any 16 bits, and after it the encoder. -/

namespace Sys2Proof

/-- Why a command word is illegal: the three conditions of R75, by name. -/
inductive DecodeError where
  /-- CMD[15:9] != 0 (R75 item 1). -/
  | reservedBits
  /-- CMD[7:0] is not an OP of R73 (R75 item 2). -/
  | unassignedOp
  /-- CMD[8] = 1 and OP is not one of the five encode operations (R75 item 3). -/
  | allocateNotAllowed
deriving DecidableEq, Repr

/-- CMD bits 15:9, reserved, must be 0 (R72). -/
def commandReserved (w : CommandWord) : BitVec 7 := w.extractLsb' 9 7

/-- CMD bit 8, A: the allocate mode of an encode operation (R72, R74). -/
def commandA (w : CommandWord) : Bool := w.getLsbD 8

/-- CMD bits 7:0, OP: the operation code (R72). -/
def commandOp (w : CommandWord) : BitVec 8 := w.extractLsb' 0 8

/-- An operation that takes no A bit: A must be 0 (R74, R75 item 3). -/
def plainForm (a : Bool) (i : Instr) : Except DecodeError Instr :=
  if a then .error .allocateNotAllowed else .ok i

/-- The operation map (R73): the operation of an OP value, with the A bit where the operation takes one. -/
def decodeOp (a : Bool) (op : Nat) : Except DecodeError Instr :=
  match op with
  | 0x01 => plainForm a .packCtl
  | 0x02 => plainForm a .packMode
  | 0x03 => plainForm a .makeAddr
  | 0x04 => plainForm a .unpackCtl
  | 0x05 => plainForm a .unpackMode
  | 0x10 => .ok (.hdrEnc a)
  | 0x11 => plainForm a .hdrDec
  | 0x20 => plainForm a .fit10
  | 0x21 => plainForm a .mkToken
  | 0x22 => plainForm a .mkTrig
  | 0x23 => plainForm a .mkPreq
  | 0x24 => plainForm a .mkCyc
  | 0x30 => .ok (.tokenEnc a)
  | 0x31 => plainForm a .tokenDec
  | 0x32 => .ok (.trigEnc a)
  | 0x33 => plainForm a .trigDec
  | 0x34 => .ok (.preqEnc a)
  | 0x35 => plainForm a .preqDec
  | 0x36 => .ok (.cycEnc a)
  | 0x37 => plainForm a .cycDec
  | 0x40 => plainForm a .parse
  | _ => .error .unassignedOp

/-- Decode a command word as a whole (R72). Every word that is not an operation's is rejected by name (R75); the order in
which the three conditions are named is immaterial, since each ends with the same status. -/
def decode (w : CommandWord) : Except DecodeError Instr :=
  if commandReserved w = 0#7 then decodeOp (commandA w) (commandOp w).toNat else .error .reservedBits

/-- The OP value of an operation (R73). -/
def Instr.opcode : Instr → BitVec 8
  | .packCtl => 0x01#8
  | .packMode => 0x02#8
  | .makeAddr => 0x03#8
  | .unpackCtl => 0x04#8
  | .unpackMode => 0x05#8
  | .hdrEnc _ => 0x10#8
  | .hdrDec => 0x11#8
  | .fit10 => 0x20#8
  | .mkToken => 0x21#8
  | .mkTrig => 0x22#8
  | .mkPreq => 0x23#8
  | .mkCyc => 0x24#8
  | .tokenEnc _ => 0x30#8
  | .tokenDec => 0x31#8
  | .trigEnc _ => 0x32#8
  | .trigDec => 0x33#8
  | .preqEnc _ => 0x34#8
  | .preqDec => 0x35#8
  | .cycEnc _ => 0x36#8
  | .cycDec => 0x37#8
  | .parse => 0x40#8

/-- The command word of an operation: RSV = 0 in bits 15:9, A in bit 8, OP in bits 7:0 (R72). -/
def encode (i : Instr) : CommandWord := 0#7 ++ BitVec.ofBool i.allocateBit ++ i.opcode

/-- The operation the decoder reads from the table row's bits `w`. A command word is one 16-bit register write and not a
sequence of bytes (R55, R77), so the table's bit numbers are CMD's own. -/
def decodeTableWord (nbits w : Nat) : Option Instr :=
  if nbits ≤ 16 ∧ w < 2 ^ nbits then
    match decode (BitVec.ofNat 16 w) with
    | .ok i => some i
    | .error _ => none
  else none

end Sys2Proof
end

