-- ==== Sys2Proof/Machine/Registers.lean ====
section
/-! DEFINITION. The register types of the block: the header record HDR (R22), the argument record CARG (R31, R32), the
variant kind (R28), the name registers (R29), and the name of every register and view a host can read (R34).

`⊥`, "a register that holds no value" (R12), is a value the spec itself gives the data registers: it is their reset value
(R37) and operations write it (R38). It is `none` here (notes/assumptions/2.md). -/

namespace Sys2Proof.Machine

/-- KIND: which frame variant the variant register holds (R28). -/
inductive Kind where
  /-- No variant; HDR alone is meaningful. Code 0. -/
  | none
  /-- Token. Code 1. -/
  | token
  /-- Trigger. Code 2. -/
  | trigger
  /-- ParticipationRequest. Code 3. -/
  | preq
  /-- Cyclic. Code 4. -/
  | cyclic
deriving DecidableEq, Repr

/-- The index of NAME[i] and NAME_IN[i]: node, vendor and manufacturer name, in that order (R29, R32). -/
inductive NameIndex where
  | node
  | vendor
  | manufacturer
deriving DecidableEq, Repr

/-- Three name registers, each a byte string or ⊥: NAME[0..2] (R29) and CARG.NAME_IN[0..2] (R32). -/
structure Names where
  node : Option Bytes
  vendor : Option Bytes
  manufacturer : Option Bytes
deriving DecidableEq, Repr

/-- A header record with no ⊥ field: the 27 fields of R22, each of its width. -/
structure Header where
  /-- FTT: FrameTypeTag, wire offset 0. -/
  ftt : Tag
  /-- TFL: TotalFrameLength, wire offset 4. -/
  tfl : BitVec 32
  /-- SA: SourceAddress, wire offset 8 (R26). -/
  sa : BitVec 32
  /-- DA: DestinationAddress, wire offset 12 (R26). -/
  da : BitVec 32
  /-- VSEQ: VersionSequence, wire offset 16. -/
  vseq : BitVec 32
  /-- SEQ: Sequence, wire offset 20. -/
  seq : BitVec 32
  /-- MCTL: ControlFlags, wire offset 24 (R24). -/
  mctl : BitVec 32
  /-- ULS: UpperLayerSize, wire offset 28. -/
  uls : BitVec 16
  /-- MSZ: MessageSize, wire offset 30. -/
  msz : BitVec 16
  /-- MADD: MessageAddress, wire offset 32. -/
  madd : BitVec 32
  /-- MFT: MessageFormat, wire offset 36. -/
  mft : BitVec 8
  /-- MRLT: MessageRelated, wire offset 37. -/
  mrlt : BitVec 8
  /-- TCD: TypeCode, wire offset 40. -/
  tcd : BitVec 16
  /-- VER: ProtocolVersion, wire offset 42. -/
  ver : BitVec 16
  /-- CAD1: CommonAddress1, wire offset 44. -/
  cad1 : BitVec 16
  /-- CSZ1: CommonSize1, wire offset 46. -/
  csz1 : BitVec 16
  /-- CAD2: CommonAddress2, wire offset 48. -/
  cad2 : BitVec 16
  /-- CSZ2: CommonSize2, wire offset 50. -/
  csz2 : BitVec 16
  /-- MODE: ModeFlags, wire offset 52 (R25). -/
  mode : BitVec 16
  /-- PTYPE: ProcessingType, wire offset 54. -/
  ptype : BitVec 8
  /-- PRI: Priority, wire offset 55. -/
  pri : BitVec 8
  /-- CBN: CurrentBlockNumber, wire offset 56. -/
  cbn : BitVec 8
  /-- TBN: TotalBlockNumber, wire offset 57. -/
  tbn : BitVec 8
  /-- BSIZE: FrameByteSize, wire offset 58. -/
  bsize : BitVec 16
  /-- LKS: LinkStatus, wire offset 60. -/
  lks : BitVec 8
  /-- TW: TokenWatchdog, wire offset 61. -/
  tw : BitVec 8
  /-- RCT: RefreshCycleTime, wire offset 62. -/
  rct : BitVec 16
deriving DecidableEq, Repr

/-- The register HDR: "Each field independently holds either a value of its width or ⊥" (R22). -/
structure HdrReg where
  ftt : Option Tag
  tfl : Option (BitVec 32)
  sa : Option (BitVec 32)
  da : Option (BitVec 32)
  vseq : Option (BitVec 32)
  seq : Option (BitVec 32)
  mctl : Option (BitVec 32)
  uls : Option (BitVec 16)
  msz : Option (BitVec 16)
  madd : Option (BitVec 32)
  mft : Option (BitVec 8)
  mrlt : Option (BitVec 8)
  tcd : Option (BitVec 16)
  ver : Option (BitVec 16)
  cad1 : Option (BitVec 16)
  csz1 : Option (BitVec 16)
  cad2 : Option (BitVec 16)
  csz2 : Option (BitVec 16)
  mode : Option (BitVec 16)
  ptype : Option (BitVec 8)
  pri : Option (BitVec 8)
  cbn : Option (BitVec 8)
  tbn : Option (BitVec 8)
  bsize : Option (BitVec 16)
  lks : Option (BitVec 8)
  tw : Option (BitVec 8)
  rct : Option (BitVec 16)
deriving DecidableEq, Repr

/-- The 26 scalar constructor arguments with no ⊥ among them (R31). -/
structure CargScalars where
  /-- SRC_NODE. -/
  srcNode : BitVec 8
  /-- DST_NODE. -/
  dstNode : BitVec 8
  /-- TH_FLAG. -/
  thFlag : BitVec 1
  /-- PART_FLAG. -/
  partFlag : BitVec 1
  /-- MINOR. -/
  minor : BitVec 8
  /-- MAJOR. -/
  major : BitVec 4
  /-- TMODE. -/
  tmode : BitVec 1
  /-- VSEQ. -/
  vseq : BitVec 32
  /-- SEQ. -/
  seq : BitVec 32
  /-- ULS. -/
  uls : BitVec 16
  /-- MSZ. -/
  msz : BitVec 16
  /-- MADD. -/
  madd : BitVec 32
  /-- MFT. -/
  mft : BitVec 8
  /-- MRLT. -/
  mrlt : BitVec 8
  /-- VER. -/
  ver : BitVec 16
  /-- CAD1. -/
  cad1 : BitVec 16
  /-- CSZ1. -/
  csz1 : BitVec 16
  /-- CAD2. -/
  cad2 : BitVec 16
  /-- CSZ2. -/
  csz2 : BitVec 16
  /-- PTYPE. -/
  ptype : BitVec 8
  /-- PRI. -/
  pri : BitVec 8
  /-- CBN. -/
  cbn : BitVec 8
  /-- TBN. -/
  tbn : BitVec 8
  /-- LKS. -/
  lks : BitVec 8
  /-- TW. -/
  tw : BitVec 8
  /-- RCT. -/
  rct : BitVec 16
deriving DecidableEq, Repr

/-- The register CARG: 26 scalar fields (R31) and four byte strings (R32), each a value or ⊥. -/
structure Carg where
  srcNode : Option (BitVec 8)
  dstNode : Option (BitVec 8)
  thFlag : Option (BitVec 1)
  partFlag : Option (BitVec 1)
  minor : Option (BitVec 8)
  major : Option (BitVec 4)
  tmode : Option (BitVec 1)
  vseq : Option (BitVec 32)
  seq : Option (BitVec 32)
  uls : Option (BitVec 16)
  msz : Option (BitVec 16)
  madd : Option (BitVec 32)
  mft : Option (BitVec 8)
  mrlt : Option (BitVec 8)
  ver : Option (BitVec 16)
  cad1 : Option (BitVec 16)
  csz1 : Option (BitVec 16)
  cad2 : Option (BitVec 16)
  csz2 : Option (BitVec 16)
  ptype : Option (BitVec 8)
  pri : Option (BitVec 8)
  cbn : Option (BitVec 8)
  tbn : Option (BitVec 8)
  lks : Option (BitVec 8)
  tw : Option (BitVec 8)
  rct : Option (BitVec 16)
  /-- NAME_IN[0..2] (R32). -/
  nameIn : Names
  /-- PAYLOAD_IN (R32). -/
  payloadIn : Option Bytes
deriving DecidableEq, Repr

/-- The 32-bit fields of HDR (R22, R47). -/
inductive Hdr32 where
  | tfl
  | sa
  | da
  | vseq
  | seq
  | mctl
  | madd
deriving DecidableEq, Repr

/-- The 16-bit fields of HDR (R22, R47). -/
inductive Hdr16 where
  | uls
  | msz
  | tcd
  | ver
  | cad1
  | csz1
  | cad2
  | csz2
  | mode
  | bsize
  | rct
deriving DecidableEq, Repr

/-- The 8-bit fields of HDR (R22, R47). -/
inductive Hdr8 where
  | mft
  | mrlt
  | ptype
  | pri
  | cbn
  | tbn
  | lks
  | tw
deriving DecidableEq, Repr

/-- A field of HDR, by its width: the 4-byte string FTT, or an integer field (R22). -/
inductive HdrField where
  | ftt
  | w32 (f : Hdr32)
  | w16 (f : Hdr16)
  | w8 (f : Hdr8)
deriving DecidableEq, Repr

/-- The 32-bit scalar fields of CARG (R31). -/
inductive Carg32 where
  | vseq
  | seq
  | madd
deriving DecidableEq, Repr

/-- The 16-bit scalar fields of CARG (R31). -/
inductive Carg16 where
  | uls
  | msz
  | ver
  | cad1
  | csz1
  | cad2
  | csz2
  | rct
deriving DecidableEq, Repr

/-- The 8-bit scalar fields of CARG (R31). -/
inductive Carg8 where
  | srcNode
  | dstNode
  | minor
  | mft
  | mrlt
  | ptype
  | pri
  | cbn
  | tbn
  | lks
  | tw
deriving DecidableEq, Repr

/-- The 1-bit scalar fields of CARG (R31). -/
inductive Carg1 where
  | thFlag
  | partFlag
  | tmode
deriving DecidableEq, Repr

/-- A scalar field of CARG, by its width; MAJOR is the only u4 (R31). -/
inductive CargField where
  | w32 (f : Carg32)
  | w16 (f : Carg16)
  | w8 (f : Carg8)
  | major
  | w1 (f : Carg1)
deriving DecidableEq, Repr

/-- The name of a register, a field or a view that the host can read (R34) and that UNWRITTEN can name (R141). -/
inductive Register where
  | cmd
  | status
  | inBuf
  /-- IN_LEN, a read-only view of IN_BUF (R20). -/
  | inLen
  | outBuf
  /-- OUT_CAP, a read-only view of OUT_BUF (R21). -/
  | outCap
  | outLen
  | hdr (f : HdrField)
  | kind
  | name (i : NameIndex)
  | payload
  | carg (f : CargField)
  | nameIn (i : NameIndex)
  | payloadIn
deriving DecidableEq, Repr

/-- What a register that does not hold ⊥ reads as: an unsigned integer (R9), a byte string, or a variant kind. -/
inductive RegValue where
  | number (n : Nat)
  | string (b : Bytes)
  | kind (k : Kind)
deriving DecidableEq, Repr

/-- Three name registers that hold a value each. -/
def Names.ofStrings (node vendor manufacturer : Bytes) : Names :=
  ⟨some node, some vendor, some manufacturer⟩

/-- NAME[0..2] <- ⊥ (R38). -/
def Names.unwritten : Names := ⟨none, none, none⟩

/-- HDR holding the record h in every field. -/
def HdrReg.ofHeader (h : Header) : HdrReg where
  ftt := some h.ftt
  tfl := some h.tfl
  sa := some h.sa
  da := some h.da
  vseq := some h.vseq
  seq := some h.seq
  mctl := some h.mctl
  uls := some h.uls
  msz := some h.msz
  madd := some h.madd
  mft := some h.mft
  mrlt := some h.mrlt
  tcd := some h.tcd
  ver := some h.ver
  cad1 := some h.cad1
  csz1 := some h.csz1
  cad2 := some h.cad2
  csz2 := some h.csz2
  mode := some h.mode
  ptype := some h.ptype
  pri := some h.pri
  cbn := some h.cbn
  tbn := some h.tbn
  bsize := some h.bsize
  lks := some h.lks
  tw := some h.tw
  rct := some h.rct

/-- HDR with ⊥ in every field (R37). -/
def HdrReg.unwritten : HdrReg where
  ftt := none
  tfl := none
  sa := none
  da := none
  vseq := none
  seq := none
  mctl := none
  uls := none
  msz := none
  madd := none
  mft := none
  mrlt := none
  tcd := none
  ver := none
  cad1 := none
  csz1 := none
  cad2 := none
  csz2 := none
  mode := none
  ptype := none
  pri := none
  cbn := none
  tbn := none
  bsize := none
  lks := none
  tw := none
  rct := none

/-- CARG holding the 26 scalars c and the four strings as given. -/
def Carg.ofScalars (c : CargScalars) (nameIn : Names) (payloadIn : Option Bytes) : Carg where
  srcNode := some c.srcNode
  dstNode := some c.dstNode
  thFlag := some c.thFlag
  partFlag := some c.partFlag
  minor := some c.minor
  major := some c.major
  tmode := some c.tmode
  vseq := some c.vseq
  seq := some c.seq
  uls := some c.uls
  msz := some c.msz
  madd := some c.madd
  mft := some c.mft
  mrlt := some c.mrlt
  ver := some c.ver
  cad1 := some c.cad1
  csz1 := some c.csz1
  cad2 := some c.cad2
  csz2 := some c.csz2
  ptype := some c.ptype
  pri := some c.pri
  cbn := some c.cbn
  tbn := some c.tbn
  lks := some c.lks
  tw := some c.tw
  rct := some c.rct
  nameIn := nameIn
  payloadIn := payloadIn

/-- CARG with ⊥ in every field, NAME_IN and PAYLOAD_IN included (R37). -/
def Carg.unwritten : Carg where
  srcNode := none
  dstNode := none
  thFlag := none
  partFlag := none
  minor := none
  major := none
  tmode := none
  vseq := none
  seq := none
  uls := none
  msz := none
  madd := none
  mft := none
  mrlt := none
  ver := none
  cad1 := none
  csz1 := none
  cad2 := none
  csz2 := none
  ptype := none
  pri := none
  cbn := none
  tbn := none
  lks := none
  tw := none
  rct := none
  nameIn := Names.unwritten
  payloadIn := none

end Sys2Proof.Machine
end

