-- ==== Sys2Proof/Machine/HostProgram.lean ====
section
/-! DEFINITION. The entries of a host program: commands and host actions (R17, R79, R153). -/

namespace Sys2Proof.Machine

/-- `host X <- v`: a host write of one register, field or buffer (R79). There is a constructor for exactly the registers
the host may write (R34): none for STATUS, OUT_LEN, KIND or the configuration, since "Each of these actions has no move
in a model" (R153), and every value has its field's width (R31). CMD is written by `HostEntry.command`.

v is a constant. Whether it may be an expression over the block's registers is open in R79; that it may not, LOOPBACK
apart, is the model's choice (DESIGN CHOICE, notes/assumptions/23.md). -/
inductive HostWrite where
  | inBuf (b : Bytes)
  | outBuf (b : Bytes)
  | hdrFtt (v : Tag)
  | hdr32 (f : Hdr32) (v : BitVec 32)
  | hdr16 (f : Hdr16) (v : BitVec 16)
  | hdr8 (f : Hdr8) (v : BitVec 8)
  | name (i : NameIndex) (b : Bytes)
  | payload (b : Bytes)
  | carg32 (f : Carg32) (v : BitVec 32)
  | carg16 (f : Carg16) (v : BitVec 16)
  | carg8 (f : Carg8) (v : BitVec 8)
  | cargMajor (v : BitVec 4)
  | carg1 (f : Carg1) (v : BitVec 1)
  | nameIn (i : NameIndex) (b : Bytes)
  | payloadIn (b : Bytes)
deriving DecidableEq, Repr

/-- One entry of a host program (R17, R79). -/
inductive HostEntry where
  /-- A write of CMD, which issues exactly one command (R18). Any 16-bit word can be written (R75). -/
  | command (w : CommandWord)
  /-- `host X <- v`, v a constant (R79; notes/assumptions/23.md). -/
  | write (a : HostWrite)
  /-- `host check X = v` (R79). -/
  | check (r : Register) (v : RegValue)
  /-- LOOPBACK: `host IN_BUF <- OUT_BUF[0..OUT_LEN)` (R79). -/
  | loopback
  /-- The reset event of R154. Who asserts reset is open in the spec; that it is an entry of the host's program, between
  two commands, is the model's choice (notes/assumptions/21.md). -/
  | reset
deriving DecidableEq, Repr

end Sys2Proof.Machine
end

