-- ==== Sys2Proof/Machine/State.lean ====
section
/-! DEFINITION. The state of one HMD instance (R15), the reasons a step can stop (R141, R152), and reset (R37, R154). -/

namespace Sys2Proof.Machine

/-- Why a command has no meaning. -/
inductive Fault where
  /-- UNWRITTEN(r): a command reads the register or field r while it holds ⊥. The spec states the stop: such a command
  "has no meaning in this spec" and "A model records the fault UNWRITTEN(register)" (R12, R141, D21). Raised by every
  operation with a register in its read set (R82, R139 step 3). Safe: the model stops, and makes no value up. -/
  | unwritten (r : Register)
deriving DecidableEq, Repr

/-- Why the model gives a state no step: a configuration or interleaving outside the spec (R152). -/
inductive Refusal where
  /-- An instruction whose arm of exec has no meaning yet. No arm of this model raises it. Safe. -/
  | notModelled (mnemonic : String)
  /-- The configuration breaks a constraint of R7 (R127, R157). Raised by step. Safe. -/
  | illegalConfiguration
  /-- The host writes r with a byte string longer than r can hold (R20, R21, R29, R30, R32). Raised by the host's write,
  never by a command. Safe (notes/assumptions/6.md). -/
  | stringTooLong (r : Register)
  /-- LOOPBACK with OUT_LEN > OUT_CAP: the sub-string OUT_BUF[0..OUT_LEN) does not exist (R10, R79). Raised by the host's
  LOOPBACK, never by a command. Safe (notes/assumptions/8.md). -/
  | loopbackOutOfRange
  /-- Two buffers of a system of instances are the same storage (R58, R150). Raised by a system's step. Safe. -/
  | sharedBuffer
  /-- The system has no instance with that index. Raised by a system's step. Safe. -/
  | noSuchInstance
deriving DecidableEq, Repr

/-- One HMD instance: the registers of R15, which are all the state the block has (R39); the configuration, which is not
state but which no other argument of step could carry (R36, notes/assumptions/1.md); and the part of the host's program
that is still to come, which the host holds and the block does not (R17, notes/assumptions/4.md). -/
structure State where
  /-- The parameters of R7, fixed for the life of the instance (R36). -/
  config : Config
  /-- CMD: the last command word the host wrote (R18). -/
  cmd : CommandWord
  /-- STATUS: the status code of the last command (R19). -/
  status : BitVec 8
  /-- IN_BUF: the input buffer; IN_LEN is its length (R20). -/
  inBuf : Bytes
  /-- OUT_BUF: the output buffer; OUT_CAP is its length (R21). -/
  outBuf : Bytes
  /-- OUT_LEN: the byte count of the last successful encode (R21). -/
  outLen : Nat
  /-- HDR: the header record (R22). -/
  hdr : HdrReg
  /-- KIND: which variant the variant register holds (R28). -/
  kind : Kind
  /-- NAME[0..2] (R29). -/
  name : Names
  /-- PAYLOAD (R30). -/
  payload : Option Bytes
  /-- CARG: the constructor arguments (R31, R32). -/
  carg : Carg
  /-- The entries of the host program not yet issued, the next one first (R17). The MODEL's own field. -/
  host : List HostEntry
deriving DecidableEq, Repr

/-- Reset under a configuration: every register at its value of R37. Reset does not change the configuration (R156), and
it issues no command (R154). The reset event of a running instance is `hostReset` (notes/assumptions/21.md). -/
def State.resetWith (c : Config) : State where
  config := c
  cmd := 0x0000#16
  status := 0x00#8
  inBuf := []
  outBuf := []
  outLen := 0
  hdr := HdrReg.unwritten
  kind := .none
  name := Names.unwritten
  payload := none
  carg := Carg.unwritten
  host := []

/-- The machine right after reset (R37, R154). Its configuration is the artificial one of D35: DESIGN CHOICE, unsafe
(notes/assumptions/1.md). -/
def State.reset : State := State.resetWith Config.artificialTest

end Sys2Proof.Machine
end

