-- ==== Sys2Proof/Machine/Flags.lean ====
section
/-! DEFINITION. STATUS, the block's only condition register (R19, R80), and the bit fields the constructors pack into
header words, which are data and not flags (R24, R25, R26). -/

namespace Sys2Proof.Machine

/-- The errors of R80, by name. -/
inductive ErrorCode where
  /-- The supplied buffer is shorter than the structure (R135). -/
  | tooShortToParse
  /-- An in-place encode target is shorter than the frame (R137). -/
  | tooShortToMarshal
  /-- PARSE: the type code is in no row of the dispatch table (R138). -/
  | notImplemented
  /-- MK_CYC: the payload is longer than MAX_PAYLOAD_LEN (R140). -/
  | argOutOfRange
  /-- An illegal command word, or an encode of another variant than KIND names (R140). -/
  | illegalCommand
deriving DecidableEq, Repr

/-- The code of an error in STATUS bits 6:0 (R80). -/
def ErrorCode.code : ErrorCode → BitVec 8
  | .tooShortToParse => 0x01#8
  | .tooShortToMarshal => 0x02#8
  | .notImplemented => 0x03#8
  | .argOutOfRange => 0x7E#8
  | .illegalCommand => 0x7F#8

/-- STATUS after a success: OK (R80). -/
def statusOk : BitVec 8 := 0x00#8

/-- STATUS after a variant decode error inside PARSE: bit 7 (W) marks it, bits 6:0 keep the code (R80, R129). -/
def statusWrapped (e : ErrorCode) : BitVec 8 := 0x80#8 ||| e.code

/-- The code of KIND (R28). -/
def Kind.code : Kind → Nat
  | .none => 0
  | .token => 1
  | .trigger => 2
  | .preq => 3
  | .cyclic => 4

/-- ControlFlags from its two flags: `(tokenHolderFlag<<31) | (participationFlag<<30)` (R24, R84). -/
def packControlFlags (th part : BitVec 1) : BitVec 32 :=
  (th.setWidth 32 <<< 31) ||| (part.setWidth 32 <<< 30)

/-- ModeFlags from its fields: `(minorVersion<<8) | (majorVersion<<4) | tokenModeFlag` (R25, R85). -/
def packModeFlags (minor : BitVec 8) (major : BitVec 4) (tmode : BitVec 1) : BitVec 16 :=
  (minor.setWidth 16 <<< 8) ||| (major.setWidth 16 <<< 4) ||| tmode.setWidth 16

/-- A source or destination address from its node number: `NET_PREFIX | node` (R26, R86). -/
def packAddress (node : BitVec 8) : BitVec 32 := Config.netPrefix ||| node.setWidth 32

/-- MCTL[31], TH (R24, R87). -/
def controlTh (m : BitVec 32) : BitVec 1 := m.extractLsb' 31 1

/-- MCTL[30], PART (R24, R87). -/
def controlPart (m : BitVec 32) : BitVec 1 := m.extractLsb' 30 1

/-- MODE[15:8], MINOR (R25, R88). -/
def modeMinor (m : BitVec 16) : BitVec 8 := m.extractLsb' 8 8

/-- MODE[7:4], MAJOR (R25, R88). -/
def modeMajor (m : BitVec 16) : BitVec 4 := m.extractLsb' 4 4

/-- MODE[0], TMODE (R25, R88). -/
def modeTmode (m : BitVec 16) : BitVec 1 := m.extractLsb' 0 1

end Sys2Proof.Machine
end

