-- ==== Sys2Proof/Machine/Ops.lean ====
section
/-! DEFINITION. The shared operations: the buffer primitives of R11, the fit of a name (R100), the output step of every
encode (R91), the named updates of State, and how an operation ends: staged writes committed, or an error that changes
STATUS alone (R12, R136), or the fault UNWRITTEN (R141). -/

namespace Sys2Proof.Machine

/-! ### Buffers (R11, R41, R43) -/

/-- The byte of buffer `B` at offset `off`; `none` where the buffer has no such offset (R41). -/
def readByte (B : Bytes) (off : Nat) : Option Byte := B[off]?

/-- `MemReadBytes(B, off, n)`: the byte string `B[off..off+n)` (R11). Every operation checks the range first (R45). -/
def memReadBytes (B : Bytes) (off n : Nat) : Bytes := (B.drop off).take n

/-- A byte string as a big-endian unsigned integer, its first byte the most significant (R11, R43). -/
def beNat (s : Bytes) : Nat := s.foldl (fun acc b => acc * 256 + b.toNat) 0

/-- `MemRead(B, off, n)`: n bytes of B from offset off as a big-endian unsigned integer (R11). -/
def memRead (B : Bytes) (off n : Nat) : Nat := beNat (memReadBytes B off n)

/-- The n bytes of the unsigned value v, most significant first: byte k is `(v >> (8*(n-1-k))) & 0xFF` (R11). -/
def beBytes (n v : Nat) : Bytes := (List.range n).map fun k => BitVec.ofNat 8 (v >>> (8 * (n - 1 - k)))

/-- `MemWriteBytes(B, off, s)`: s[k] goes to B[off+k] (R11). Every operation checks the range first (R45). -/
def memWriteBytes (B : Bytes) (off : Nat) (s : Bytes) : Bytes := B.take off ++ s ++ B.drop (off + s.length)

/-- `MemWrite(B, off, n, v)`: the value v of 8n bits, big-endian, at offset off (R11). -/
def memWrite (B : Bytes) (off n v : Nat) : Bytes := memWriteBytes B off (beBytes n v)

/-- The bytes of a 4-byte string, in order (R43). -/
def Tag.bytes (t : Tag) : Bytes := [t.b0, t.b1, t.b2, t.b3]

/-- `MemReadBytes(B, off, 4)` as a 4-byte string (R83, R90). -/
def memReadTag (B : Bytes) (off : Nat) : Tag :=
  ⟨B.getD off 0, B.getD (off + 1) 0, B.getD (off + 2) 0, B.getD (off + 3) 0⟩

/-! ### Names (R100) -/

/-- `fit10(s)`: truncated to 10 bytes, or right-padded with ASCII space to 10 bytes (R100). -/
def fit10 (s : Bytes) : Bytes :=
  if Config.nameLen ≤ s.length then s.take Config.nameLen
  else s ++ List.replicate (Config.nameLen - s.length) Config.padByte

/-! ### Named updates of State -/

/-- CMD <- w (R18). -/
def State.setCmd (s : State) (w : CommandWord) : State := { s with cmd := w }

/-- STATUS <- v (R19). -/
def State.setStatus (s : State) (v : BitVec 8) : State := { s with status := v }

/-- IN_BUF <- b (R20). -/
def State.setInBuf (s : State) (b : Bytes) : State := { s with inBuf := b }

/-- OUT_BUF <- b (R21). -/
def State.setOutBuf (s : State) (b : Bytes) : State := { s with outBuf := b }

/-- OUT_BUF <- b and OUT_LEN <- n, what an encode writes (R91). -/
def State.setOutput (s : State) (b : Bytes) (n : Nat) : State := { s with outBuf := b, outLen := n }

/-- HDR <- h (R22). -/
def State.setHdr (s : State) (h : HdrReg) : State := { s with hdr := h }

/-- NAME[0..2] <- n (R29). -/
def State.setName (s : State) (n : Names) : State := { s with name := n }

/-- PAYLOAD <- p (R30). -/
def State.setPayload (s : State) (p : Option Bytes) : State := { s with payload := p }

/-- The variant register as a whole: HDR, KIND, NAME[0..2] and PAYLOAD (R15, R38). -/
def State.setVariant (s : State) (h : Header) (k : Kind) (n : Names) (p : Option Bytes) : State :=
  { s with hdr := HdrReg.ofHeader h, kind := k, name := n, payload := p }

/-- CARG <- c (R31). -/
def State.setCarg (s : State) (c : Carg) : State := { s with carg := c }

/-- The rest of the host program (R17). -/
def State.setHost (s : State) (p : List HostEntry) : State := { s with host := p }

/-! ### How an operation ends (R12, R136, R152) -/

/-- Why an operation ends before its last line. -/
inductive Stop where
  /-- `raise E` (R12). -/
  | raise (e : ErrorCode)
  /-- `raise WRAPPED(E)`, inside PARSE (R128, R129). -/
  | raiseWrapped (e : ErrorCode)
  /-- A read of ⊥ (R12, R141). -/
  | unwritten (r : Register)
deriving DecidableEq, Repr

/-- An operation as the rules' pseudocode writes it: the state with its writes staged, or the reason it ended (R12, R13).
Host.Outcome is what it becomes in `conclude`. -/
abbrev Staged := Except Stop State

/-- A read of a register or field: its value, or UNWRITTEN if it holds ⊥. The spec states this stop and gives no effect in
its place: such a command "has no meaning in this spec" (R12, R141, D21, item 14 of 93_implementation_defined.md). -/
def readReg {α : Type} (r : Register) (v : Option α) : Except Stop α :=
  match v with
  | some a => .ok a
  | none => .error (.unwritten r)

/-- The end of every operation, and the only place an error is taken. An operation that reaches its end commits all its
writes at once and sets STATUS to OK; `raise E` discards them and changes STATUS alone, so the block has nothing to return
from (R12, R136, R143); a read of ⊥ is the fault UNWRITTEN (R141, R152). `s` is the state before the operation. -/
def conclude (s : State) (op : Staged) : Host.Outcome State Fault Refusal :=
  match op with
  | .ok t => .next (t.setStatus statusOk)
  | .error (.raise e) => .next (s.setStatus e.code)
  | .error (.raiseWrapped e) => .next (s.setStatus (statusWrapped e))
  | .error (.unwritten r) => .fault (.unwritten r)

/-- A failure of the selected variant decode, propagated by PARSE with its context mark (R129). UNWRITTEN is no status code
and takes no mark (R141); a decode reads no register that can hold ⊥, so none reaches here (R139 step 3). -/
def wrapFailure (op : Staged) : Staged :=
  match op with
  | .ok t => .ok t
  | .error (.raise e) => .error (.raiseWrapped e)
  | .error (.raiseWrapped e) => .error (.raiseWrapped e)
  | .error (.unwritten r) => .error (.unwritten r)

/-- `if KIND != k: raise ILLEGAL_COMMAND`, the first check of a variant encode (R107, R111, R113, R115, R139 step 2). -/
def requireKind (k : Kind) (s : State) : Except Stop Unit :=
  if s.kind = k then .ok () else .error (.raise .illegalCommand)

/-- `if IN_LEN < n: raise TOO_SHORT_TO_PARSE` (R45, R135). -/
def requireInput (n : Nat) (s : State) : Except Stop Unit :=
  if s.inBuf.length < n then .error (.raise .tooShortToParse) else .ok ()

/-- `emit(f)`: the output step of every encode (R91). With A = 1 the output is a fresh buffer of exactly the frame's bytes.
With A = 0 it is written in place: the check comes before any byte is written, and bytes from N on keep their values. -/
def emit (a : Bool) (f : Bytes) (s : State) : Staged :=
  if a then .ok (s.setOutput f f.length)
  else if s.outBuf.length < f.length then .error (.raise .tooShortToMarshal)
  else .ok (s.setOutput (f ++ s.outBuf.drop f.length) f.length)

end Sys2Proof.Machine
end

