-- ==== Sys2Proof/Machine/Operands.lean ====
section
/-! DEFINITION. The operands of the operations: access to each field of HDR and CARG at its own width (R44, R47), and the
read sets of R82 as reads that fault on ⊥ (R139 step 3, R141). -/

namespace Sys2Proof.Machine

/-- A 32-bit field of HDR (R22). -/
def HdrReg.get32 (h : HdrReg) : Hdr32 → Option (BitVec 32)
  | .tfl => h.tfl
  | .sa => h.sa
  | .da => h.da
  | .vseq => h.vseq
  | .seq => h.seq
  | .mctl => h.mctl
  | .madd => h.madd

/-- HDR with a 32-bit field written (R22). -/
def HdrReg.set32 (h : HdrReg) (f : Hdr32) (v : BitVec 32) : HdrReg :=
  match f with
  | .tfl => { h with tfl := some v }
  | .sa => { h with sa := some v }
  | .da => { h with da := some v }
  | .vseq => { h with vseq := some v }
  | .seq => { h with seq := some v }
  | .mctl => { h with mctl := some v }
  | .madd => { h with madd := some v }

/-- A 16-bit field of HDR (R22). -/
def HdrReg.get16 (h : HdrReg) : Hdr16 → Option (BitVec 16)
  | .uls => h.uls
  | .msz => h.msz
  | .tcd => h.tcd
  | .ver => h.ver
  | .cad1 => h.cad1
  | .csz1 => h.csz1
  | .cad2 => h.cad2
  | .csz2 => h.csz2
  | .mode => h.mode
  | .bsize => h.bsize
  | .rct => h.rct

/-- HDR with a 16-bit field written (R22). -/
def HdrReg.set16 (h : HdrReg) (f : Hdr16) (v : BitVec 16) : HdrReg :=
  match f with
  | .uls => { h with uls := some v }
  | .msz => { h with msz := some v }
  | .tcd => { h with tcd := some v }
  | .ver => { h with ver := some v }
  | .cad1 => { h with cad1 := some v }
  | .csz1 => { h with csz1 := some v }
  | .cad2 => { h with cad2 := some v }
  | .csz2 => { h with csz2 := some v }
  | .mode => { h with mode := some v }
  | .bsize => { h with bsize := some v }
  | .rct => { h with rct := some v }

/-- A 8-bit field of HDR (R22). -/
def HdrReg.get8 (h : HdrReg) : Hdr8 → Option (BitVec 8)
  | .mft => h.mft
  | .mrlt => h.mrlt
  | .ptype => h.ptype
  | .pri => h.pri
  | .cbn => h.cbn
  | .tbn => h.tbn
  | .lks => h.lks
  | .tw => h.tw

/-- HDR with a 8-bit field written (R22). -/
def HdrReg.set8 (h : HdrReg) (f : Hdr8) (v : BitVec 8) : HdrReg :=
  match f with
  | .mft => { h with mft := some v }
  | .mrlt => { h with mrlt := some v }
  | .ptype => { h with ptype := some v }
  | .pri => { h with pri := some v }
  | .cbn => { h with cbn := some v }
  | .tbn => { h with tbn := some v }
  | .lks => { h with lks := some v }
  | .tw => { h with tw := some v }

/-- A 32-bit field of CARG (R31). -/
def Carg.get32 (h : Carg) : Carg32 → Option (BitVec 32)
  | .vseq => h.vseq
  | .seq => h.seq
  | .madd => h.madd

/-- CARG with a 32-bit field written (R31). -/
def Carg.set32 (h : Carg) (f : Carg32) (v : BitVec 32) : Carg :=
  match f with
  | .vseq => { h with vseq := some v }
  | .seq => { h with seq := some v }
  | .madd => { h with madd := some v }

/-- A 16-bit field of CARG (R31). -/
def Carg.get16 (h : Carg) : Carg16 → Option (BitVec 16)
  | .uls => h.uls
  | .msz => h.msz
  | .ver => h.ver
  | .cad1 => h.cad1
  | .csz1 => h.csz1
  | .cad2 => h.cad2
  | .csz2 => h.csz2
  | .rct => h.rct

/-- CARG with a 16-bit field written (R31). -/
def Carg.set16 (h : Carg) (f : Carg16) (v : BitVec 16) : Carg :=
  match f with
  | .uls => { h with uls := some v }
  | .msz => { h with msz := some v }
  | .ver => { h with ver := some v }
  | .cad1 => { h with cad1 := some v }
  | .csz1 => { h with csz1 := some v }
  | .cad2 => { h with cad2 := some v }
  | .csz2 => { h with csz2 := some v }
  | .rct => { h with rct := some v }

/-- A 8-bit field of CARG (R31). -/
def Carg.get8 (h : Carg) : Carg8 → Option (BitVec 8)
  | .srcNode => h.srcNode
  | .dstNode => h.dstNode
  | .minor => h.minor
  | .mft => h.mft
  | .mrlt => h.mrlt
  | .ptype => h.ptype
  | .pri => h.pri
  | .cbn => h.cbn
  | .tbn => h.tbn
  | .lks => h.lks
  | .tw => h.tw

/-- CARG with a 8-bit field written (R31). -/
def Carg.set8 (h : Carg) (f : Carg8) (v : BitVec 8) : Carg :=
  match f with
  | .srcNode => { h with srcNode := some v }
  | .dstNode => { h with dstNode := some v }
  | .minor => { h with minor := some v }
  | .mft => { h with mft := some v }
  | .mrlt => { h with mrlt := some v }
  | .ptype => { h with ptype := some v }
  | .pri => { h with pri := some v }
  | .cbn => { h with cbn := some v }
  | .tbn => { h with tbn := some v }
  | .lks => { h with lks := some v }
  | .tw => { h with tw := some v }

/-- A 1-bit field of CARG (R31). -/
def Carg.get1 (h : Carg) : Carg1 → Option (BitVec 1)
  | .thFlag => h.thFlag
  | .partFlag => h.partFlag
  | .tmode => h.tmode

/-- CARG with a 1-bit field written (R31). -/
def Carg.set1 (h : Carg) (f : Carg1) (v : BitVec 1) : Carg :=
  match f with
  | .thFlag => { h with thFlag := some v }
  | .partFlag => { h with partFlag := some v }
  | .tmode => { h with tmode := some v }

/-- A name register (R29, R32). -/
def Names.get (n : Names) : NameIndex → Option Bytes
  | .node => n.node
  | .vendor => n.vendor
  | .manufacturer => n.manufacturer

/-- A name register written (R29, R32). -/
def Names.set (n : Names) (i : NameIndex) (v : Bytes) : Names :=
  match i with
  | .node => { n with node := some v }
  | .vendor => { n with vendor := some v }
  | .manufacturer => { n with manufacturer := some v }

/-- Read all 27 fields of HDR, in the order of R22; UNWRITTEN if one holds ⊥ (R82, R89). -/
def HdrReg.read (h : HdrReg) : Except Stop Header := do
  let ftt ← readReg (.hdr .ftt) h.ftt
  let tfl ← readReg (.hdr (.w32 .tfl)) h.tfl
  let sa ← readReg (.hdr (.w32 .sa)) h.sa
  let da ← readReg (.hdr (.w32 .da)) h.da
  let vseq ← readReg (.hdr (.w32 .vseq)) h.vseq
  let seq ← readReg (.hdr (.w32 .seq)) h.seq
  let mctl ← readReg (.hdr (.w32 .mctl)) h.mctl
  let uls ← readReg (.hdr (.w16 .uls)) h.uls
  let msz ← readReg (.hdr (.w16 .msz)) h.msz
  let madd ← readReg (.hdr (.w32 .madd)) h.madd
  let mft ← readReg (.hdr (.w8 .mft)) h.mft
  let mrlt ← readReg (.hdr (.w8 .mrlt)) h.mrlt
  let tcd ← readReg (.hdr (.w16 .tcd)) h.tcd
  let ver ← readReg (.hdr (.w16 .ver)) h.ver
  let cad1 ← readReg (.hdr (.w16 .cad1)) h.cad1
  let csz1 ← readReg (.hdr (.w16 .csz1)) h.csz1
  let cad2 ← readReg (.hdr (.w16 .cad2)) h.cad2
  let csz2 ← readReg (.hdr (.w16 .csz2)) h.csz2
  let mode ← readReg (.hdr (.w16 .mode)) h.mode
  let ptype ← readReg (.hdr (.w8 .ptype)) h.ptype
  let pri ← readReg (.hdr (.w8 .pri)) h.pri
  let cbn ← readReg (.hdr (.w8 .cbn)) h.cbn
  let tbn ← readReg (.hdr (.w8 .tbn)) h.tbn
  let bsize ← readReg (.hdr (.w16 .bsize)) h.bsize
  let lks ← readReg (.hdr (.w8 .lks)) h.lks
  let tw ← readReg (.hdr (.w8 .tw)) h.tw
  let rct ← readReg (.hdr (.w16 .rct)) h.rct
  pure { ftt, tfl, sa, da, vseq, seq, mctl, uls, msz, madd, mft, mrlt, tcd, ver,
         cad1, csz1, cad2, csz2, mode, ptype, pri, cbn, tbn, bsize, lks, tw, rct }

/-- Read the 26 scalar fields of CARG, in the order of R31; UNWRITTEN if one holds ⊥ (R82, R102). -/
def Carg.readScalars (c : Carg) : Except Stop CargScalars := do
  let srcNode ← readReg (.carg (.w8 .srcNode)) c.srcNode
  let dstNode ← readReg (.carg (.w8 .dstNode)) c.dstNode
  let thFlag ← readReg (.carg (.w1 .thFlag)) c.thFlag
  let partFlag ← readReg (.carg (.w1 .partFlag)) c.partFlag
  let minor ← readReg (.carg (.w8 .minor)) c.minor
  let major ← readReg (.carg .major) c.major
  let tmode ← readReg (.carg (.w1 .tmode)) c.tmode
  let vseq ← readReg (.carg (.w32 .vseq)) c.vseq
  let seq ← readReg (.carg (.w32 .seq)) c.seq
  let uls ← readReg (.carg (.w16 .uls)) c.uls
  let msz ← readReg (.carg (.w16 .msz)) c.msz
  let madd ← readReg (.carg (.w32 .madd)) c.madd
  let mft ← readReg (.carg (.w8 .mft)) c.mft
  let mrlt ← readReg (.carg (.w8 .mrlt)) c.mrlt
  let ver ← readReg (.carg (.w16 .ver)) c.ver
  let cad1 ← readReg (.carg (.w16 .cad1)) c.cad1
  let csz1 ← readReg (.carg (.w16 .csz1)) c.csz1
  let cad2 ← readReg (.carg (.w16 .cad2)) c.cad2
  let csz2 ← readReg (.carg (.w16 .csz2)) c.csz2
  let ptype ← readReg (.carg (.w8 .ptype)) c.ptype
  let pri ← readReg (.carg (.w8 .pri)) c.pri
  let cbn ← readReg (.carg (.w8 .cbn)) c.cbn
  let tbn ← readReg (.carg (.w8 .tbn)) c.tbn
  let lks ← readReg (.carg (.w8 .lks)) c.lks
  let tw ← readReg (.carg (.w8 .tw)) c.tw
  let rct ← readReg (.carg (.w16 .rct)) c.rct
  pure { srcNode, dstNode, thFlag, partFlag, minor, major, tmode, vseq, seq, uls, msz, madd, mft,
         mrlt, ver, cad1, csz1, cad2, csz2, ptype, pri, cbn, tbn, lks, tw, rct }

/-- Read three name registers, in the order of their index; UNWRITTEN if one holds ⊥. `reg` names them: NAME (R29) or
NAME_IN (R32). -/
def Names.read (reg : NameIndex → Register) (n : Names) : Except Stop (Bytes × Bytes × Bytes) := do
  let node ← readReg (reg .node) n.node
  let vendor ← readReg (reg .vendor) n.vendor
  let manufacturer ← readReg (reg .manufacturer) n.manufacturer
  pure (node, vendor, manufacturer)

end Sys2Proof.Machine
end

