-- ==== Sys2Proof/Machine/HeaderCodec.lean ====
section
/-! DEFINITION. The header codec: hdr_bytes and hdr_parse (R89, R90) and the operations PACK_CTL, PACK_MODE, MAKE_ADDR,
UNPACK_CTL, UNPACK_MODE, HDR_ENC and HDR_DEC (R84 to R88, R92, R93). The packing operations pack and unpack; the codec
places fields and does nothing else to them (R61, R94). -/

namespace Sys2Proof.Machine

/-- `hdr_bytes(h)`: the 64-byte wire header of a record, each field at its own offset (R59, R61, R89). The reserved bytes
38 and 39 are written 0x00 (R66). -/
def hdrBytes (h : Header) : Bytes :=
  let B := List.replicate Config.hdrLen (0x00#8)
  let B := memWriteBytes B 0 (Tag.bytes h.ftt)
  let B := memWrite B 4 4 h.tfl.toNat
  let B := memWrite B 8 4 h.sa.toNat
  let B := memWrite B 12 4 h.da.toNat
  let B := memWrite B 16 4 h.vseq.toNat
  let B := memWrite B 20 4 h.seq.toNat
  let B := memWrite B 24 4 h.mctl.toNat
  let B := memWrite B 28 2 h.uls.toNat
  let B := memWrite B 30 2 h.msz.toNat
  let B := memWrite B 32 4 h.madd.toNat
  let B := memWrite B 36 1 h.mft.toNat
  let B := memWrite B 37 1 h.mrlt.toNat
  let B := memWrite B 38 2 0x0000
  let B := memWrite B 40 2 h.tcd.toNat
  let B := memWrite B 42 2 h.ver.toNat
  let B := memWrite B 44 2 h.cad1.toNat
  let B := memWrite B 46 2 h.csz1.toNat
  let B := memWrite B 48 2 h.cad2.toNat
  let B := memWrite B 50 2 h.csz2.toNat
  let B := memWrite B 52 2 h.mode.toNat
  let B := memWrite B 54 1 h.ptype.toNat
  let B := memWrite B 55 1 h.pri.toNat
  let B := memWrite B 56 1 h.cbn.toNat
  let B := memWrite B 57 1 h.tbn.toNat
  let B := memWrite B 58 2 h.bsize.toNat
  let B := memWrite B 60 1 h.lks.toNat
  let B := memWrite B 61 1 h.tw.toNat
  let B := memWrite B 62 2 h.rct.toNat
  B

/-- `hdr_parse(B)`: the record decoded from a byte string of 64 bytes or more, each field read from its own offset and from
no other (R59, R83, R90, R164). Bytes 38, 39 and every byte from 64 on are not read. Every caller checks the length first. -/
def hdrParse (B : Bytes) : Header where
  ftt := memReadTag B 0
  tfl := BitVec.ofNat 32 (memRead B 4 4)
  sa := BitVec.ofNat 32 (memRead B 8 4)
  da := BitVec.ofNat 32 (memRead B 12 4)
  vseq := BitVec.ofNat 32 (memRead B 16 4)
  seq := BitVec.ofNat 32 (memRead B 20 4)
  mctl := BitVec.ofNat 32 (memRead B 24 4)
  uls := BitVec.ofNat 16 (memRead B 28 2)
  msz := BitVec.ofNat 16 (memRead B 30 2)
  madd := BitVec.ofNat 32 (memRead B 32 4)
  mft := BitVec.ofNat 8 (memRead B 36 1)
  mrlt := BitVec.ofNat 8 (memRead B 37 1)
  tcd := BitVec.ofNat 16 (memRead B 40 2)
  ver := BitVec.ofNat 16 (memRead B 42 2)
  cad1 := BitVec.ofNat 16 (memRead B 44 2)
  csz1 := BitVec.ofNat 16 (memRead B 46 2)
  cad2 := BitVec.ofNat 16 (memRead B 48 2)
  csz2 := BitVec.ofNat 16 (memRead B 50 2)
  mode := BitVec.ofNat 16 (memRead B 52 2)
  ptype := BitVec.ofNat 8 (memRead B 54 1)
  pri := BitVec.ofNat 8 (memRead B 55 1)
  cbn := BitVec.ofNat 8 (memRead B 56 1)
  tbn := BitVec.ofNat 8 (memRead B 57 1)
  bsize := BitVec.ofNat 16 (memRead B 58 2)
  lks := BitVec.ofNat 8 (memRead B 60 1)
  tw := BitVec.ofNat 8 (memRead B 61 1)
  rct := BitVec.ofNat 16 (memRead B 62 2)

/-- PACK_CTL (R84): HDR.MCTL from CARG.TH_FLAG and CARG.PART_FLAG. -/
def execPackCtl (s : State) : Host.Outcome State Fault Refusal :=
  conclude s do
    let th ← readReg (.carg (.w1 .thFlag)) s.carg.thFlag
    let pt ← readReg (.carg (.w1 .partFlag)) s.carg.partFlag
    pure (s.setHdr { s.hdr with mctl := some (packControlFlags th pt) })

/-- PACK_MODE (R85): HDR.MODE from CARG.MINOR, CARG.MAJOR and CARG.TMODE. -/
def execPackMode (s : State) : Host.Outcome State Fault Refusal :=
  conclude s do
    let mn ← readReg (.carg (.w8 .minor)) s.carg.minor
    let mj ← readReg (.carg .major) s.carg.major
    let tm ← readReg (.carg (.w1 .tmode)) s.carg.tmode
    pure (s.setHdr { s.hdr with mode := some (packModeFlags mn mj tm) })

/-- MAKE_ADDR (R86): HDR.SA and HDR.DA from CARG.SRC_NODE and CARG.DST_NODE. -/
def execMakeAddr (s : State) : Host.Outcome State Fault Refusal :=
  conclude s do
    let src ← readReg (.carg (.w8 .srcNode)) s.carg.srcNode
    let dst ← readReg (.carg (.w8 .dstNode)) s.carg.dstNode
    pure (s.setHdr { s.hdr with sa := some (packAddress src), da := some (packAddress dst) })

/-- UNPACK_CTL (R87): CARG.TH_FLAG and CARG.PART_FLAG from HDR.MCTL; bits 29:0 are discarded without a check. -/
def execUnpackCtl (s : State) : Host.Outcome State Fault Refusal :=
  conclude s do
    let m ← readReg (.hdr (.w32 .mctl)) s.hdr.mctl
    pure (s.setCarg { s.carg with thFlag := some (controlTh m), partFlag := some (controlPart m) })

/-- UNPACK_MODE (R88): CARG.MINOR, CARG.MAJOR and CARG.TMODE from HDR.MODE; bits 3:1 are discarded without a check. -/
def execUnpackMode (s : State) : Host.Outcome State Fault Refusal :=
  conclude s do
    let m ← readReg (.hdr (.w16 .mode)) s.hdr.mode
    pure (s.setCarg { s.carg with
      minor := some (modeMinor m), major := some (modeMajor m), tmode := some (modeTmode m) })

/-- HDR_ENC (R92): encode the header alone, under any KIND. -/
def execHdrEnc (a : Bool) (s : State) : Host.Outcome State Fault Refusal :=
  conclude s do
    let h ← s.hdr.read
    emit a (hdrBytes h) s

/-- HDR_DEC (R93): decode a header alone; KIND becomes NONE and the body registers ⊥. -/
def execHdrDec (s : State) : Host.Outcome State Fault Refusal :=
  conclude s do
    requireInput Config.hdrLen s
    pure (s.setVariant (hdrParse s.inBuf) .none Names.unwritten none)

end Sys2Proof.Machine
end

