-- ==== Sys2Proof/Machine/FrameVariants.lean ====
section
/-! DEFINITION. The frame variants: mk_hdr, part_bytes and part_parse (R102, R109, R110) and the operations FIT10, MK_TOKEN,
MK_TRIG, MK_PREQ, MK_CYC and the encode and decode of each variant (R101, R103 to R108, R111 to R116). -/

namespace Sys2Proof.Machine

/-- `mk_hdr(tcd, total)`: the header a constructor builds from the 26 scalar arguments (R102). FTT, TFL, TCD and BSIZE are
the fields the constructor derives (D12); the packed fields use the formulas of R84, R85 and R86. -/
def mkHdr (c : Config) (g : CargScalars) (tcd : BitVec 16) (total : Nat) : Header where
  ftt := c.frameTypeTag
  tfl := BitVec.ofNat 32 total
  sa := packAddress g.srcNode
  da := packAddress g.dstNode
  vseq := g.vseq
  seq := g.seq
  mctl := packControlFlags g.thFlag g.partFlag
  uls := g.uls
  msz := g.msz
  madd := g.madd
  mft := g.mft
  mrlt := g.mrlt
  tcd := tcd
  ver := g.ver
  cad1 := g.cad1
  csz1 := g.csz1
  cad2 := g.cad2
  csz2 := g.csz2
  mode := packModeFlags g.minor g.major g.tmode
  ptype := g.ptype
  pri := g.pri
  cbn := g.cbn
  tbn := g.tbn
  bsize := BitVec.ofNat 16 total
  lks := g.lks
  tw := g.tw
  rct := g.rct

/-- `part_bytes()`: the 96-byte wire form of a participation variant: the header, three fitted names at offsets 64, 74 and
84, and the zero trailer (R68, R69, R109). -/
def partBytes (h : Header) (n : Bytes × Bytes × Bytes) : Bytes :=
  hdrBytes h ++ fit10 n.1 ++ fit10 n.2.1 ++ fit10 n.2.2 ++ List.replicate Config.partRsvLen (0x00#8)

/-- The names of `part_parse(B)`: three 10-byte slices, copied verbatim, padding and all (R110). -/
def partNames (B : Bytes) : Names :=
  Names.ofStrings (memReadBytes B 64 Config.nameLen) (memReadBytes B 74 Config.nameLen)
    (memReadBytes B 84 Config.nameLen)

/-- Three name registers holding fitted names (R100, R104). -/
def fittedNames (n : Bytes × Bytes × Bytes) : Names :=
  Names.ofStrings (fit10 n.1) (fit10 n.2.1) (fit10 n.2.2)

/-- The body of MK_TRIG and MK_PREQ, which differ only in the type code and in KIND (R104, R105). -/
def mkParticipation (tcd : BitVec 16) (k : Kind) (s : State) : Staged := do
  let g ← s.carg.readScalars
  let n ← s.carg.nameIn.read .nameIn
  pure (s.setVariant (mkHdr s.config g tcd Config.partLen) k (fittedNames n) none)

/-- The body of TRIG_ENC and PREQ_ENC, which differ only in the KIND they require (R111, R113). -/
def participationEnc (k : Kind) (a : Bool) (s : State) : Staged := do
  requireKind k s
  let h ← s.hdr.read
  let n ← s.name.read .name
  emit a (partBytes h n) s

/-- The body of TRIG_DEC and PREQ_DEC, which differ only in the KIND they set (R112, R114). TCD is not checked. -/
def participationDec (k : Kind) (s : State) : Staged := do
  requireInput Config.partLen s
  pure (s.setVariant (hdrParse s.inBuf) k (partNames s.inBuf) none)

/-- The body of TOKEN_DEC, which PARSE runs too (R108, R128). TCD is not checked. -/
def tokenDecBody (s : State) : Staged := do
  requireInput Config.hdrLen s
  pure (s.setVariant (hdrParse s.inBuf) .token Names.unwritten none)

/-- FIT10 (R101): NAME[i] <- fit10(CARG.NAME_IN[i]). -/
def execFit10 (s : State) : Host.Outcome State Fault Refusal :=
  conclude s do
    let n ← s.carg.nameIn.read .nameIn
    pure (s.setName (fittedNames n))

/-- MK_TOKEN (R103). -/
def execMkToken (s : State) : Host.Outcome State Fault Refusal :=
  conclude s do
    let g ← s.carg.readScalars
    pure (s.setVariant (mkHdr s.config g s.config.typecodeToken Config.hdrLen) .token Names.unwritten none)

/-- MK_TRIG (R104). -/
def execMkTrig (s : State) : Host.Outcome State Fault Refusal :=
  conclude s (mkParticipation s.config.typecodeTrigger .trigger s)

/-- MK_PREQ (R105). -/
def execMkPreq (s : State) : Host.Outcome State Fault Refusal :=
  conclude s (mkParticipation s.config.typecodePreq .preq s)

/-- MK_CYC (R106). UNWRITTEN is decided over the whole read set before the range check (R139 step 3, C9). -/
def execMkCyc (s : State) : Host.Outcome State Fault Refusal :=
  conclude s do
    let g ← s.carg.readScalars
    let p ← readReg .payloadIn s.carg.payloadIn
    if Config.maxPayloadLen < p.length then .error (.raise .argOutOfRange)
    else pure (s.setVariant (mkHdr s.config g s.config.typecodeCyclic (Config.hdrLen + p.length)) .cyclic
      Names.unwritten (some p))

/-- TOKEN_ENC (R107). -/
def execTokenEnc (a : Bool) (s : State) : Host.Outcome State Fault Refusal :=
  conclude s do
    requireKind .token s
    let h ← s.hdr.read
    emit a (hdrBytes h) s

/-- TOKEN_DEC (R108). -/
def execTokenDec (s : State) : Host.Outcome State Fault Refusal :=
  conclude s (tokenDecBody s)

/-- TRIG_ENC (R111). -/
def execTrigEnc (a : Bool) (s : State) : Host.Outcome State Fault Refusal :=
  conclude s (participationEnc .trigger a s)

/-- TRIG_DEC (R112). -/
def execTrigDec (s : State) : Host.Outcome State Fault Refusal :=
  conclude s (participationDec .trigger s)

/-- PREQ_ENC (R113). -/
def execPreqEnc (a : Bool) (s : State) : Host.Outcome State Fault Refusal :=
  conclude s (participationEnc .preq a s)

/-- PREQ_DEC (R114). -/
def execPreqDec (s : State) : Host.Outcome State Fault Refusal :=
  conclude s (participationDec .preq s)

/-- CYC_ENC (R115). HDR.TFL and HDR.BSIZE are not compared with the frame's length (R118). -/
def execCycEnc (a : Bool) (s : State) : Host.Outcome State Fault Refusal :=
  conclude s do
    requireKind .cyclic s
    let h ← s.hdr.read
    let p ← readReg .payload s.payload
    emit a (hdrBytes h ++ p) s

/-- CYC_DEC (R116): the payload is every byte of IN_BUF from offset 64 on, copied. -/
def execCycDec (s : State) : Host.Outcome State Fault Refusal :=
  conclude s do
    requireInput Config.hdrLen s
    pure (s.setVariant (hdrParse s.inBuf) .cyclic Names.unwritten (some (s.inBuf.drop Config.hdrLen)))

end Sys2Proof.Machine
end

