-- ==== Sys2Proof/Machine/Dispatcher.lean ====
section
/-! DEFINITION. The dispatcher: PARSE (R126 to R133). -/

namespace Sys2Proof.Machine

/-- The type code of a buffer: the big-endian u16 at offsets 40 and 41 (R62). -/
def typeCode (B : Bytes) : BitVec 16 := BitVec.ofNat 16 (memRead B 40 2)

/-- PARSE (R128): its own length check, which is not wrapped; then the selection by the closed table of R126, on the type
code alone (R132); then the selected variant's decode, whose failure is propagated with the context mark (R129). -/
def execParse (s : State) : Host.Outcome State Fault Refusal :=
  conclude s do
    requireInput Config.hdrLen s
    if typeCode s.inBuf = s.config.typecodeToken then wrapFailure (tokenDecBody s)
    else if typeCode s.inBuf = s.config.typecodeTrigger then wrapFailure (participationDec .trigger s)
    else .error (.raise .notImplemented)

end Sys2Proof.Machine
end

