-- ==== Sys2Proof/Machine/Dispatch.lean ====
section
/-! DEFINITION. exec: one arm per constructor of Instr, each one call of its meaning. -/

namespace Sys2Proof.Machine

def exec (i : Instr) (s : State) : Host.Outcome State Fault Refusal :=
  match i with
  | .packCtl => Sys2Proof.Machine.execPackCtl s
  | .packMode => Sys2Proof.Machine.execPackMode s
  | .makeAddr => Sys2Proof.Machine.execMakeAddr s
  | .unpackCtl => Sys2Proof.Machine.execUnpackCtl s
  | .unpackMode => Sys2Proof.Machine.execUnpackMode s
  | .hdrEnc a => Sys2Proof.Machine.execHdrEnc a s
  | .hdrDec => Sys2Proof.Machine.execHdrDec s
  | .fit10 => Sys2Proof.Machine.execFit10 s
  | .mkToken => Sys2Proof.Machine.execMkToken s
  | .mkTrig => Sys2Proof.Machine.execMkTrig s
  | .mkPreq => Sys2Proof.Machine.execMkPreq s
  | .mkCyc => Sys2Proof.Machine.execMkCyc s
  | .tokenEnc a => Sys2Proof.Machine.execTokenEnc a s
  | .tokenDec => Sys2Proof.Machine.execTokenDec s
  | .trigEnc a => Sys2Proof.Machine.execTrigEnc a s
  | .trigDec => Sys2Proof.Machine.execTrigDec s
  | .preqEnc a => Sys2Proof.Machine.execPreqEnc a s
  | .preqDec => Sys2Proof.Machine.execPreqDec s
  | .cycEnc a => Sys2Proof.Machine.execCycEnc a s
  | .cycDec => Sys2Proof.Machine.execCycDec s
  | .parse => Sys2Proof.Machine.execParse s

end Sys2Proof.Machine
end

