-- ==== Sys2Proof/Machine/Host.lean ====
section
/-! DEFINITION. The host's side: what a register reads as (R34), host writes and their bounds, LOOPBACK and host checks
(R79, R153), the reset event (R154), and the issue of
one command (R18, R75). -/

namespace Sys2Proof.Machine

/-- A value of an integer field as the host reads it: an unsigned integer (R9). -/
def numberOf {w : Nat} (v : Option (BitVec w)) : Option RegValue := v.map fun x => .number x.toNat

/-- What the host reads from a register, a field or a view; `none` if it holds ⊥. Every register is readable (R34). -/
def State.readRegister (s : State) : Register → Option RegValue
  | .cmd => some (.number s.cmd.toNat)
  | .status => some (.number s.status.toNat)
  | .inBuf => some (.string s.inBuf)
  | .inLen => some (.number s.inBuf.length)
  | .outBuf => some (.string s.outBuf)
  | .outCap => some (.number s.outBuf.length)
  | .outLen => some (.number s.outLen)
  | .hdr .ftt => s.hdr.ftt.map fun t => .string (Tag.bytes t)
  | .hdr (.w32 f) => numberOf (s.hdr.get32 f)
  | .hdr (.w16 f) => numberOf (s.hdr.get16 f)
  | .hdr (.w8 f) => numberOf (s.hdr.get8 f)
  | .kind => some (.kind s.kind)
  | .name i => (s.name.get i).map .string
  | .payload => s.payload.map .string
  | .carg (.w32 f) => numberOf (s.carg.get32 f)
  | .carg (.w16 f) => numberOf (s.carg.get16 f)
  | .carg (.w8 f) => numberOf (s.carg.get8 f)
  | .carg .major => numberOf s.carg.major
  | .carg (.w1 f) => numberOf (s.carg.get1 f)
  | .nameIn i => (s.carg.nameIn.get i).map .string
  | .payloadIn => s.carg.payloadIn.map .string

/-- The longest payload a payload register holds: MAX_BUF_LEN - 64, so that its frame fits a buffer (R30, R32, R47). -/
def payloadBound (c : Config) : Nat := c.maxBufLen - Config.hdrLen

/-- The register a host write would overfill: its string is longer than the register's bound (R20, R21, R29, R30, R32).
`none` if the write is possible; a value of an integer field always is, since the field's type is its width (R31). -/
def HostWrite.overfills (c : Config) : HostWrite → Option Register
  | .inBuf b => if c.maxBufLen < b.length then some .inBuf else none
  | .outBuf b => if c.maxBufLen < b.length then some .outBuf else none
  | .hdrFtt _ => none
  | .hdr32 _ _ => none
  | .hdr16 _ _ => none
  | .hdr8 _ _ => none
  | .name i b => if c.maxBufLen < b.length then some (.name i) else none
  | .payload b => if payloadBound c < b.length then some .payload else none
  | .carg32 _ _ => none
  | .carg16 _ _ => none
  | .carg8 _ _ => none
  | .cargMajor _ => none
  | .carg1 _ _ => none
  | .nameIn i b => if c.maxBufLen < b.length then some (.nameIn i) else none
  | .payloadIn b => if payloadBound c < b.length then some .payloadIn else none

/-- The state after a host write that is possible: the one register holds the value, a byte string written whole sets its
buffer's contents and length at once (R20, R21, R79). -/
def HostWrite.apply (a : HostWrite) (s : State) : State :=
  match a with
  | .inBuf b => s.setInBuf b
  | .outBuf b => s.setOutBuf b
  | .hdrFtt v => s.setHdr { s.hdr with ftt := some v }
  | .hdr32 f v => s.setHdr (s.hdr.set32 f v)
  | .hdr16 f v => s.setHdr (s.hdr.set16 f v)
  | .hdr8 f v => s.setHdr (s.hdr.set8 f v)
  | .name i b => s.setName (s.name.set i b)
  | .payload b => s.setPayload (some b)
  | .carg32 f v => s.setCarg (s.carg.set32 f v)
  | .carg16 f v => s.setCarg (s.carg.set16 f v)
  | .carg8 f v => s.setCarg (s.carg.set8 f v)
  | .cargMajor v => s.setCarg { s.carg with major := some v }
  | .carg1 f v => s.setCarg (s.carg.set1 f v)
  | .nameIn i b => s.setCarg { s.carg with nameIn := s.carg.nameIn.set i b }
  | .payloadIn b => s.setCarg { s.carg with payloadIn := some b }

/-- A host write (R79). One that its register cannot hold has no move (notes/assumptions/6.md). -/
def hostWrite (a : HostWrite) (s : State) : Host.Outcome State Fault Refusal :=
  match a.overfills s.config with
  | some r => .refused (.stringTooLong r)
  | none => .next (a.apply s)

/-- `host check X = v`: an assertion the host makes, with no effect on the block (R79), whatever X holds. UNWRITTEN is an
outcome of a command (R141, R152), and a check is no command: where X holds ⊥ the assertion is false and the run goes on
(DEDUCED, notes/assumptions/7.md and 19.md). -/
def hostCheck (_r : Register) (_v : RegValue) (s : State) : Host.Outcome State Fault Refusal := .next s

/-- Whether the assertion `host check X = v` holds in a state (R79). It holds of no v where X holds ⊥. -/
def checkHolds (r : Register) (v : RegValue) (s : State) : Bool := s.readRegister r == some v

/-- LOOPBACK: `host IN_BUF <- OUT_BUF[0..OUT_LEN)` (R79), a frame sent and received unchanged. -/
def hostLoopback (s : State) : Host.Outcome State Fault Refusal :=
  if s.outBuf.length < s.outLen then .refused .loopbackOutOfRange
  else hostWrite (.inBuf (s.outBuf.take s.outLen)) s

/-- The reset event: every register takes its value of R37 (R154), the configuration stays (R156), and no command is
issued. What the host does next is not the block's, so the rest of its program stays (notes/assumptions/21.md). -/
def hostReset (s : State) : Host.Outcome State Fault Refusal :=
  .next ((State.resetWith s.config).setHost s.host)

/-- The host writes w to CMD, which issues exactly one command (R18). The word is held as written. An illegal word changes
nothing else and ends with ILLEGAL_COMMAND (R75, R139 step 1); a legal one runs its operation (R72). -/
def issueCommand (w : CommandWord) (s : State) : Host.Outcome State Fault Refusal :=
  match decode w with
  | .ok i => exec i (s.setCmd w)
  | .error _ => conclude (s.setCmd w) (.error (.raise .illegalCommand))

/-- One entry of the host program (R17, R79, R154). -/
def runEntry (e : HostEntry) (s : State) : Host.Outcome State Fault Refusal :=
  match e with
  | .command w => issueCommand w s
  | .write a => hostWrite a s
  | .check r v => hostCheck r v s
  | .loopback => hostLoopback s
  | .reset => hostReset s

/-- The next step of the host's program: its index advances by one per entry and the list does not wrap (R17). With no
entry left the block holds its state indefinitely (R151, R167; notes/assumptions/5.md). -/
def runNextEntry (s : State) : Host.Outcome State Fault Refusal :=
  match s.host with
  | [] => .next s
  | e :: rest => runEntry e (s.setHost rest)

/-- The host program with a command put before its next entry. -/
def State.issueNext (s : State) (w : CommandWord) : State := s.setHost (.command w :: s.host)

end Sys2Proof.Machine
end

