-- ==== Sys2Proof/Machine/Step.lean ====
section
/-! DEFINITION. One step of the machine, and how a command comes to be the next one it runs. -/

namespace Sys2Proof.Machine

/-- One step: the next entry of the host's program, run to its end (R35, R48). A configuration that breaks a constraint of
R7 is refused: it has no step (R127, R152, R157). -/
def step (s : State) : Host.Outcome State Fault Refusal :=
  if s.config.legal then runNextEntry s else .refused .illegalConfiguration

/-- The state in which the very next step issues the command word w. The block fetches no instruction: the host writes CMD
(R17, R55), so the word is put at the head of the host's program, and nothing else is changed. -/
def State.withFetchWord (s : State) (nbits w : Nat) : State :=
  s.issueNext (BitVec.ofNat 16 (w % 2 ^ nbits))

end Sys2Proof.Machine
end

