-- ==== Sys2Proof/Machine/Assembly.lean ====
section
/-! DEFINITION. The assembler syntax of operations and the pseudo-operation SEND (R78, R79). -/

namespace Sys2Proof.Machine

/-- The mnemonic of an operation (R73). -/
def mnemonic : Instr → String
  | .packCtl => "PACK_CTL"
  | .packMode => "PACK_MODE"
  | .makeAddr => "MAKE_ADDR"
  | .unpackCtl => "UNPACK_CTL"
  | .unpackMode => "UNPACK_MODE"
  | .hdrEnc _ => "HDR_ENC"
  | .hdrDec => "HDR_DEC"
  | .fit10 => "FIT10"
  | .mkToken => "MK_TOKEN"
  | .mkTrig => "MK_TRIG"
  | .mkPreq => "MK_PREQ"
  | .mkCyc => "MK_CYC"
  | .tokenEnc _ => "TOKEN_ENC"
  | .tokenDec => "TOKEN_DEC"
  | .trigEnc _ => "TRIG_ENC"
  | .trigDec => "TRIG_DEC"
  | .preqEnc _ => "PREQ_ENC"
  | .preqDec => "PREQ_DEC"
  | .cycEnc _ => "CYC_ENC"
  | .cycDec => "CYC_DEC"
  | .parse => "PARSE"

/-- An operation as one line of a program: its mnemonic, with `.A` for an encode with A = 1 (R78). -/
def assembly (i : Instr) : String := if i.allocateBit then mnemonic i ++ ".A" else mnemonic i

/-- Every operation in every form. -/
def allForms : List Instr :=
  [.packCtl, .packMode, .makeAddr, .unpackCtl, .unpackMode, .hdrEnc false, .hdrEnc true, .hdrDec, .fit10, .mkToken,
    .mkTrig, .mkPreq, .mkCyc, .tokenEnc false, .tokenEnc true, .tokenDec, .trigEnc false, .trigEnc true, .trigDec,
    .preqEnc false, .preqEnc true, .preqDec, .cycEnc false, .cycEnc true, .cycDec, .parse]

/-- The operation text of a line: what stands before a `;` comment, without the blanks around it (R78;
notes/assumptions/18.md). -/
def operationText (line : List Char) : List Char :=
  let body := (line.takeWhile (· != ';')).dropWhile (· == ' ')
  (body.reverse.dropWhile (· == ' ')).reverse

/-- The operation a line of a program stands for; `none` for text that is no operation's (R78). -/
def assemble (line : String) : Option Instr :=
  allForms.find? fun i => (assembly i).toList == operationText line.toList

/-- The variants of `SEND <V>` (R79). -/
inductive SendVariant where
  | token
  | trig
  | preq
  | cyc
deriving DecidableEq, Repr

/-- SEND <V> expands to the two commands `MK_<V>` then `<V>_ENC.A` (R79). -/
def sendEntries : SendVariant → List HostEntry
  | .token => [.command (encode .mkToken), .command (encode (.tokenEnc true))]
  | .trig => [.command (encode .mkTrig), .command (encode (.trigEnc true))]
  | .preq => [.command (encode .mkPreq), .command (encode (.preqEnc true))]
  | .cyc => [.command (encode .mkCyc), .command (encode (.cycEnc true))]

end Sys2Proof.Machine
end

