-- ==== Sys2Proof/Machine/System.lean ====
section
/-! DEFINITION. Several instances side by side (R58, R150). Each is the single agent of its own state; a system whose
buffers are not distinct storage is refused. The core machine is one instance (notes/assumptions/11.md). -/

namespace Sys2Proof.Machine

/-- How one instance of a system stands: it runs, or its own run has ended and stays so. "The fault is kept for the rest of
the run" (R141), and a refused configuration has no step (R152). -/
inductive Run where
  /-- It runs, in a state. -/
  | running (s : State)
  /-- Its run ended in a fault. -/
  | faulted (f : Fault)
  /-- Its run ended in a refusal. -/
  | refused (r : Refusal)
deriving DecidableEq, Repr

/-- An instance in a system: how it stands, and which storage of the host its two buffers are. Instances have no
identifiers of their own (R150). -/
structure Placed where
  inStorage : Nat
  outStorage : Nat
  run : Run
deriving DecidableEq, Repr

/-- One step of an instance. A stop ends the run of this instance and is kept (R141). -/
def Run.advance (x : Run) : Run :=
  match x with
  | .running s =>
    match step s with
    | .next t => .running t
    | .fault f => .faulted f
    | .refused r => .refused r
  | .faulted f => .faulted f
  | .refused r => .refused r

/-- An instance after one step of its own. -/
def Placed.advance (p : Placed) : Placed := { p with run := p.run.advance }

/-- The storage that the buffers of a system are, buffer by buffer. -/
def bufferStorage (sys : List Placed) : List Nat := sys.flatMap fun p => [p.inStorage, p.outStorage]

/-- All buffers are distinct storage (R57, R58). -/
def buffersDistinct (sys : List Placed) : Bool := decide (bufferStorage sys).Nodup

/-- One step of the instance with index n; every other instance stands as it stood (R58). A stop of that instance, the
fault UNWRITTEN among them, ends its own run and no other's: the spec does not say so of a fault, and it is read from "the
same results" in any interleaving (R58, D27; DEDUCED, notes/assumptions/22.md). So a system's step never faults. A shared
buffer is refused for the whole system (R150, R152). -/
def systemStep (n : Nat) (sys : List Placed) : Host.Outcome (List Placed) Fault Refusal :=
  if buffersDistinct sys then
    match sys[n]? with
    | none => .refused .noSuchInstance
    | some p => .next (sys.set n p.advance)
  else .refused .sharedBuffer

/-- The steps of an interleaving, which names the instance that moves at each step. -/
def systemRun (schedule : List Nat) (sys : List Placed) : Host.Outcome (List Placed) Fault Refusal :=
  match schedule with
  | [] => .next sys
  | n :: rest =>
    match systemStep n sys with
    | .next t => systemRun rest t
    | .fault f => .fault f
    | .refused r => .refused r

end Sys2Proof.Machine
end

