-- ==== Sys2Proof/Safety.lean ====
section
/-! DEFINITION. The terms claims are stated in: the bounds and codes every reachable state keeps, the read set of each
operation (R82), and which operations write a buffer (R42). -/

namespace Sys2Proof.Machine

/-- The values R80 lists for STATUS: "No other value is ever written." -/
def listedStatus : List (BitVec 8) := [0x00#8, 0x01#8, 0x02#8, 0x03#8, 0x7E#8, 0x7F#8, 0x81#8]

/-- The cells of a buffer, as (address, byte) pairs: the byte at position k stands at offset k (R41). An address outside the
buffer is unlisted and reads as no value. -/
def bufferCells (B : Bytes) : List Host.Cell := B.zipIdx.map fun p => (p.2, p.1)

/-- The form of the memory: neither buffer is longer than MAX_BUF_LEN (R20, R21). That the cells of each buffer stand in one
canonical order holds of every byte string (Laws/Memory.lean). -/
def memoryWf (s : State) : Bool :=
  decide (s.inBuf.length ≤ s.config.maxBufLen) && decide (s.outBuf.length ≤ s.config.maxBufLen)

/-- A byte-string register that holds at most n bytes, or ⊥. -/
def withinBound (n : Nat) (v : Option Bytes) : Prop := ∀ b, v = some b → b.length ≤ n

/-- Three name registers within a bound. -/
def Names.within (n : Nat) (x : Names) : Prop :=
  withinBound n x.node ∧ withinBound n x.vendor ∧ withinBound n x.manufacturer

/-- The bounds of the byte-string registers (R20, R21, R29, R30, R32) and the values of STATUS (R80): the memory of the
block keeps its form. -/
structure State.Inv (s : State) : Prop where
  inBuf : s.inBuf.length ≤ s.config.maxBufLen
  outBuf : s.outBuf.length ≤ s.config.maxBufLen
  outLen : s.outLen ≤ s.config.maxBufLen
  name : s.name.within s.config.maxBufLen
  payload : withinBound (payloadBound s.config) s.payload
  nameIn : s.carg.nameIn.within s.config.maxBufLen
  payloadIn : withinBound (payloadBound s.config) s.carg.payloadIn
  status : s.status ∈ listedStatus

/-- All 27 fields of HDR (R22). -/
def hdrFields : List Register :=
  [.hdr .ftt, .hdr (.w32 .tfl), .hdr (.w32 .sa), .hdr (.w32 .da), .hdr (.w32 .vseq), .hdr (.w32 .seq), .hdr (.w32 .mctl),
    .hdr (.w16 .uls), .hdr (.w16 .msz), .hdr (.w32 .madd), .hdr (.w8 .mft), .hdr (.w8 .mrlt), .hdr (.w16 .tcd),
    .hdr (.w16 .ver), .hdr (.w16 .cad1), .hdr (.w16 .csz1), .hdr (.w16 .cad2), .hdr (.w16 .csz2), .hdr (.w16 .mode),
    .hdr (.w8 .ptype), .hdr (.w8 .pri), .hdr (.w8 .cbn), .hdr (.w8 .tbn), .hdr (.w16 .bsize), .hdr (.w8 .lks),
    .hdr (.w8 .tw), .hdr (.w16 .rct)]

/-- The 26 scalar fields of CARG (R31). -/
def cargScalarFields : List Register :=
  [.carg (.w8 .srcNode), .carg (.w8 .dstNode), .carg (.w1 .thFlag), .carg (.w1 .partFlag), .carg (.w8 .minor),
    .carg .major, .carg (.w1 .tmode), .carg (.w32 .vseq), .carg (.w32 .seq), .carg (.w16 .uls), .carg (.w16 .msz),
    .carg (.w32 .madd), .carg (.w8 .mft), .carg (.w8 .mrlt), .carg (.w16 .ver), .carg (.w16 .cad1), .carg (.w16 .csz1),
    .carg (.w16 .cad2), .carg (.w16 .csz2), .carg (.w8 .ptype), .carg (.w8 .pri), .carg (.w8 .cbn), .carg (.w8 .tbn),
    .carg (.w8 .lks), .carg (.w8 .tw), .carg (.w16 .rct)]

/-- CARG.NAME_IN[0..2] (R32). -/
def nameInFields : List Register := [.nameIn .node, .nameIn .vendor, .nameIn .manufacturer]

/-- NAME[0..2] (R29). -/
def nameFields : List Register := [.name .node, .name .vendor, .name .manufacturer]

/-- The registers of an operation's read set that can hold ⊥, as R82 lists them. KIND, IN_BUF and OUT_BUF never hold ⊥. -/
def readSet : Instr → List Register
  | .packCtl => [.carg (.w1 .thFlag), .carg (.w1 .partFlag)]
  | .packMode => [.carg (.w8 .minor), .carg .major, .carg (.w1 .tmode)]
  | .makeAddr => [.carg (.w8 .srcNode), .carg (.w8 .dstNode)]
  | .unpackCtl => [.hdr (.w32 .mctl)]
  | .unpackMode => [.hdr (.w16 .mode)]
  | .hdrEnc _ => hdrFields
  | .hdrDec => []
  | .fit10 => nameInFields
  | .mkToken => cargScalarFields
  | .mkTrig => cargScalarFields ++ nameInFields
  | .mkPreq => cargScalarFields ++ nameInFields
  | .mkCyc => cargScalarFields ++ [.payloadIn]
  | .tokenEnc _ => hdrFields
  | .tokenDec => []
  | .trigEnc _ => hdrFields ++ nameFields
  | .trigDec => []
  | .preqEnc _ => hdrFields ++ nameFields
  | .preqDec => []
  | .cycEnc _ => hdrFields ++ [.payload]
  | .cycDec => []
  | .parse => []

/-- The variant an encode requires KIND to name; `none` for an operation that does not check KIND (R139 step 2). -/
def requiredKind : Instr → Option Kind
  | .tokenEnc _ => some .token
  | .trigEnc _ => some .trigger
  | .preqEnc _ => some .preq
  | .cycEnc _ => some .cyclic
  | .packCtl => none
  | .packMode => none
  | .makeAddr => none
  | .unpackCtl => none
  | .unpackMode => none
  | .hdrEnc _ => none
  | .hdrDec => none
  | .fit10 => none
  | .mkToken => none
  | .mkTrig => none
  | .mkPreq => none
  | .mkCyc => none
  | .tokenDec => none
  | .trigDec => none
  | .preqDec => none
  | .cycDec => none
  | .parse => none

/-- The KIND check of an operation passes (R139 step 2). -/
def kindAllows (i : Instr) (s : State) : Prop := ∀ k, requiredKind i = some k → s.kind = k

/-- The five encode operations, the only ones that write OUT_BUF (R42). -/
def isEncode : Instr → Bool
  | .hdrEnc _ => true
  | .tokenEnc _ => true
  | .trigEnc _ => true
  | .preqEnc _ => true
  | .cycEnc _ => true
  | .packCtl => false
  | .packMode => false
  | .makeAddr => false
  | .unpackCtl => false
  | .unpackMode => false
  | .hdrDec => false
  | .fit10 => false
  | .mkToken => false
  | .mkTrig => false
  | .mkPreq => false
  | .mkCyc => false
  | .tokenDec => false
  | .trigDec => false
  | .preqDec => false
  | .cycDec => false
  | .parse => false

/-- The operations that write the variant register as a whole on success: the constructors, the decodes and PARSE (R38). -/
def writesVariant : Instr → Bool
  | .hdrDec => true
  | .mkToken => true
  | .mkTrig => true
  | .mkPreq => true
  | .mkCyc => true
  | .tokenDec => true
  | .trigDec => true
  | .preqDec => true
  | .cycDec => true
  | .parse => true
  | .packCtl => false
  | .packMode => false
  | .makeAddr => false
  | .unpackCtl => false
  | .unpackMode => false
  | .hdrEnc _ => false
  | .fit10 => false
  | .tokenEnc _ => false
  | .trigEnc _ => false
  | .preqEnc _ => false
  | .cycEnc _ => false

/-- The body registers a variant owns hold a value, and the others hold ⊥ (R33). -/
def ownsBody (k : Kind) (n : Names) (p : Option Bytes) : Prop :=
  match k with
  | .none => n = Names.unwritten ∧ p = none
  | .token => n = Names.unwritten ∧ p = none
  | .trigger => (∃ a b c, n = Names.ofStrings a b c) ∧ p = none
  | .preq => (∃ a b c, n = Names.ofStrings a b c) ∧ p = none
  | .cyclic => n = Names.unwritten ∧ ∃ b, p = some b

/-- The value of a read that did not stop. -/
def readValue {α : Type} (x : Except Stop α) : Option α :=
  match x with
  | .ok a => some a
  | .error _ => none

/-- The bytes an encode operation stores at the start of OUT_BUF, computed from what it reads (R92, R107, R111, R113, R115);
`none` for an operation that stores to no buffer, and where a register it reads holds ⊥. -/
def storedFrame (i : Instr) (s : State) : Option Bytes :=
  match i with
  | .hdrEnc _ => (readValue s.hdr.read).map hdrBytes
  | .tokenEnc _ => (readValue s.hdr.read).map hdrBytes
  | .trigEnc _ => (readValue s.hdr.read).bind fun h => (readValue (s.name.read .name)).map (partBytes h)
  | .preqEnc _ => (readValue s.hdr.read).bind fun h => (readValue (s.name.read .name)).map (partBytes h)
  | .cycEnc _ => (readValue s.hdr.read).bind fun h => s.payload.map (hdrBytes h ++ ·)
  | .packCtl => none
  | .packMode => none
  | .makeAddr => none
  | .unpackCtl => none
  | .unpackMode => none
  | .hdrDec => none
  | .fit10 => none
  | .mkToken => none
  | .mkTrig => none
  | .mkPreq => none
  | .mkCyc => none
  | .tokenDec => none
  | .trigDec => none
  | .preqDec => none
  | .cycDec => none
  | .parse => none

/-- The register a host write names (R79). -/
def HostWrite.target : HostWrite → Register
  | .inBuf _ => .inBuf
  | .outBuf _ => .outBuf
  | .hdrFtt _ => .hdr .ftt
  | .hdr32 f _ => .hdr (.w32 f)
  | .hdr16 f _ => .hdr (.w16 f)
  | .hdr8 f _ => .hdr (.w8 f)
  | .name i _ => .name i
  | .payload _ => .payload
  | .carg32 f _ => .carg (.w32 f)
  | .carg16 f _ => .carg (.w16 f)
  | .carg8 f _ => .carg (.w8 f)
  | .cargMajor _ => .carg .major
  | .carg1 f _ => .carg (.w1 f)
  | .nameIn i _ => .nameIn i
  | .payloadIn _ => .payloadIn

/-- The value a host write writes, as the host reads it back. -/
def HostWrite.value : HostWrite → RegValue
  | .inBuf b => .string b
  | .outBuf b => .string b
  | .hdrFtt v => .string (Tag.bytes v)
  | .hdr32 _ v => .number v.toNat
  | .hdr16 _ v => .number v.toNat
  | .hdr8 _ v => .number v.toNat
  | .name _ b => .string b
  | .payload b => .string b
  | .carg32 _ v => .number v.toNat
  | .carg16 _ v => .number v.toNat
  | .carg8 _ v => .number v.toNat
  | .cargMajor v => .number v.toNat
  | .carg1 _ v => .number v.toNat
  | .nameIn _ b => .string b
  | .payloadIn b => .string b

/-- The register a host write names, with the view of it where it has one: IN_LEN of IN_BUF, OUT_CAP of OUT_BUF (D32). -/
def HostWrite.touched (a : HostWrite) : List Register :=
  match a.target with
  | .inBuf => [.inBuf, .inLen]
  | .outBuf => [.outBuf, .outCap]
  | r => [r]

/-- The operations that decode IN_BUF: the five decodes and PARSE (R42). -/
def decodeOperations : List Instr := [.hdrDec, .tokenDec, .trigDec, .preqDec, .cycDec, .parse]

/-- Each constructor with the allocating encode of its variant, the two commands of SEND (R79), and its variant (R28). -/
def constructors : List (Instr × Instr × Kind) :=
  [(.mkToken, .tokenEnc true, .token), (.mkTrig, .trigEnc true, .trigger), (.mkPreq, .preqEnc true, .preq),
    (.mkCyc, .cycEnc true, .cyclic)]

end Sys2Proof.Machine
end

