-- ==== Sys2Proof/Certificates/Slice0/Obligations.lean ====
section
/-! DEFINITION. The statements for the provers, each named by what it says. Rules R<n> are the spec's; 'reads ⊥' is
`readRegister … = none` (R12). A statement that rests on a choice of the model names its log entry. -/

open Sys2Proof Sys2Proof.Machine

/-! ### The packing operations -/

/-- R84, whole: the word, the packed value with nothing else changed, and UNWRITTEN. -/
def Obligations.PackCtlPacksFlags : Prop :=
  decode 0x0001#16 = .ok .packCtl ∧
  (∀ (s : State) (th pt : BitVec 1), s.carg.thFlag = some th → s.carg.partFlag = some pt →
    exec .packCtl s = .next { s with
      hdr := { s.hdr with mctl := some ((th.setWidth 32 <<< 31) ||| (pt.setWidth 32 <<< 30)) }, status := 0x00#8 }) ∧
  (∀ s : State, s.carg.thFlag = none ∨ s.carg.partFlag = none → ∃ r, exec .packCtl s = .fault (.unwritten r))

/-- R85, whole. -/
def Obligations.PackModePacksVersions : Prop :=
  decode 0x0002#16 = .ok .packMode ∧
  (∀ (s : State) (mn : BitVec 8) (mj : BitVec 4) (tm : BitVec 1),
    s.carg.minor = some mn → s.carg.major = some mj → s.carg.tmode = some tm →
    exec .packMode s = .next { s with
      hdr := { s.hdr with
        mode := some ((mn.setWidth 16 <<< 8) ||| (mj.setWidth 16 <<< 4) ||| tm.setWidth 16) }, status := 0x00#8 }) ∧
  (∀ s : State, s.carg.minor = none ∨ s.carg.major = none ∨ s.carg.tmode = none →
    ∃ r, exec .packMode s = .fault (.unwritten r))

/-- R86, whole. -/
def Obligations.MakeAddrFormsAddresses : Prop :=
  decode 0x0003#16 = .ok .makeAddr ∧
  (∀ (s : State) (src dst : BitVec 8), s.carg.srcNode = some src → s.carg.dstNode = some dst →
    exec .makeAddr s = .next { s with
      hdr := { s.hdr with
        sa := some (0x00010000#32 ||| src.setWidth 32), da := some (0x00010000#32 ||| dst.setWidth 32) },
      status := 0x00#8 }) ∧
  (∀ s : State, s.carg.srcNode = none ∨ s.carg.dstNode = none → ∃ r, exec .makeAddr s = .fault (.unwritten r))

/-- R87, whole: each flag is its bit of MCTL, whatever the reserved bits hold. -/
def Obligations.UnpackCtlSplitsFlags : Prop :=
  decode 0x0004#16 = .ok .unpackCtl ∧
  (∀ (s : State) (m : BitVec 32), s.hdr.mctl = some m →
    exec .unpackCtl s = .next { s with
      carg := { s.carg with
        thFlag := some (BitVec.ofBool (m.getLsbD 31)), partFlag := some (BitVec.ofBool (m.getLsbD 30)) },
      status := 0x00#8 }) ∧
  (∀ s : State, s.hdr.mctl = none → exec .unpackCtl s = .fault (.unwritten (.hdr (.w32 .mctl))))

/-- R88, whole. -/
def Obligations.UnpackModeSplitsVersions : Prop :=
  decode 0x0005#16 = .ok .unpackMode ∧
  (∀ (s : State) (m : BitVec 16), s.hdr.mode = some m →
    exec .unpackMode s = .next { s with
      carg := { s.carg with
        minor := some (m.extractLsb' 8 8), major := some (m.extractLsb' 4 4),
        tmode := some (BitVec.ofBool (m.getLsbD 0)) },
      status := 0x00#8 }) ∧
  (∀ s : State, s.hdr.mode = none → exec .unpackMode s = .fault (.unwritten (.hdr (.w16 .mode))))

/-- R95, whole: packing then unpacking gives the arguments back, and unpacking then packing clears the reserved bits. -/
def Obligations.PackingLaws : Prop :=
  (∀ (s : State) (th pt : BitVec 1), s.carg.thFlag = some th → s.carg.partFlag = some pt →
    ∃ t u, exec .packCtl s = .next t ∧ exec .unpackCtl t = .next u ∧
      u.carg.thFlag = some th ∧ u.carg.partFlag = some pt) ∧
  (∀ (s : State) (mn : BitVec 8) (mj : BitVec 4) (tm : BitVec 1),
    s.carg.minor = some mn → s.carg.major = some mj → s.carg.tmode = some tm →
    ∃ t u, exec .packMode s = .next t ∧ exec .unpackMode t = .next u ∧
      u.carg.minor = some mn ∧ u.carg.major = some mj ∧ u.carg.tmode = some tm) ∧
  (∀ (s : State) (m : BitVec 32), s.hdr.mctl = some m →
    ∃ t u, exec .unpackCtl s = .next t ∧ exec .packCtl t = .next u ∧ u.hdr.mctl = some (m &&& 0xC0000000#32)) ∧
  (∀ (s : State) (m : BitVec 16), s.hdr.mode = some m →
    ∃ t u, exec .unpackMode s = .next t ∧ exec .packMode t = .next u ∧ u.hdr.mode = some (m &&& 0xFFF1#16))

/-! ### The buffer primitives and the header codec -/

/-- R11, whole, for ranges within the buffer: the four primitives, byte by byte, each write leaving every byte outside it
alone; and R44's two layouts of a multi-byte field. -/
def Obligations.BufferPrimitivesAreBigEndian : Prop :=
  (∀ (B : Bytes) (off n : Nat), off + n ≤ B.length →
    memRead B off n = ((List.range n).map fun k => (B.getD (off + k) 0).toNat * 256 ^ (n - 1 - k)).sum) ∧
  (∀ (B : Bytes) (off n v : Nat), off + n ≤ B.length → v < 256 ^ n →
    (memWrite B off n v).length = B.length ∧
    (∀ k, k < n → readByte (memWrite B off n v) (off + k) = some (BitVec.ofNat 8 (v / 256 ^ (n - 1 - k)))) ∧
    (∀ k, k < off ∨ off + n ≤ k → readByte (memWrite B off n v) k = readByte B k)) ∧
  (∀ (B : Bytes) (off n : Nat), off + n ≤ B.length →
    (memReadBytes B off n).length = n ∧ ∀ k, k < n → readByte (memReadBytes B off n) k = readByte B (off + k)) ∧
  (∀ (B s : Bytes) (off : Nat), off + s.length ≤ B.length →
    (memWriteBytes B off s).length = B.length ∧
    (∀ k, k < s.length → readByte (memWriteBytes B off s) (off + k) = readByte s k) ∧
    (∀ k, k < off ∨ off + s.length ≤ k → readByte (memWriteBytes B off s) k = readByte B k)) ∧
  (∀ v : BitVec 32, beBytes 4 v.toNat =
    [v.extractLsb' 24 8, v.extractLsb' 16 8, v.extractLsb' 8 8, v.extractLsb' 0 8]) ∧
  (∀ v : BitVec 16, beBytes 2 v.toNat = [v.extractLsb' 8 8, v.extractLsb' 0 8])

/-- R59 to R61 and R66: every entry of the 64-byte header at its offset, the reserved entry zero. -/
def Obligations.HeaderLayout : Prop :=
  ∀ h : Header,
    (hdrBytes h).length = 64 ∧ memReadBytes (hdrBytes h) 0 4 = [h.ftt.b0, h.ftt.b1, h.ftt.b2, h.ftt.b3] ∧
    memRead (hdrBytes h) 4 4 = h.tfl.toNat ∧ memRead (hdrBytes h) 8 4 = h.sa.toNat ∧
    memRead (hdrBytes h) 12 4 = h.da.toNat ∧ memRead (hdrBytes h) 16 4 = h.vseq.toNat ∧
    memRead (hdrBytes h) 20 4 = h.seq.toNat ∧ memRead (hdrBytes h) 24 4 = h.mctl.toNat ∧
    memRead (hdrBytes h) 28 2 = h.uls.toNat ∧ memRead (hdrBytes h) 30 2 = h.msz.toNat ∧
    memRead (hdrBytes h) 32 4 = h.madd.toNat ∧ memRead (hdrBytes h) 36 1 = h.mft.toNat ∧
    memRead (hdrBytes h) 37 1 = h.mrlt.toNat ∧ memReadBytes (hdrBytes h) 38 2 = [0x00#8, 0x00#8] ∧
    memRead (hdrBytes h) 40 2 = h.tcd.toNat ∧ memRead (hdrBytes h) 42 2 = h.ver.toNat ∧
    memRead (hdrBytes h) 44 2 = h.cad1.toNat ∧ memRead (hdrBytes h) 46 2 = h.csz1.toNat ∧
    memRead (hdrBytes h) 48 2 = h.cad2.toNat ∧ memRead (hdrBytes h) 50 2 = h.csz2.toNat ∧
    memRead (hdrBytes h) 52 2 = h.mode.toNat ∧ memRead (hdrBytes h) 54 1 = h.ptype.toNat ∧
    memRead (hdrBytes h) 55 1 = h.pri.toNat ∧ memRead (hdrBytes h) 56 1 = h.cbn.toNat ∧
    memRead (hdrBytes h) 57 1 = h.tbn.toNat ∧ memRead (hdrBytes h) 58 2 = h.bsize.toNat ∧
    memRead (hdrBytes h) 60 1 = h.lks.toNat ∧ memRead (hdrBytes h) 61 1 = h.tw.toNat ∧
    memRead (hdrBytes h) 62 2 = h.rct.toNat

/-- R90: every field is read from its own offset, and no byte from 64 on is read. -/
def Obligations.HeaderParseReadsFields : Prop :=
  ∀ B : Bytes, 64 ≤ B.length →
    hdrParse B = hdrParse (B.take 64) ∧
    some (hdrParse B).ftt.b0 = readByte B 0 ∧ some (hdrParse B).ftt.b1 = readByte B 1 ∧
    some (hdrParse B).ftt.b2 = readByte B 2 ∧ some (hdrParse B).ftt.b3 = readByte B 3 ∧
    (hdrParse B).tfl.toNat = memRead B 4 4 ∧ (hdrParse B).sa.toNat = memRead B 8 4 ∧
    (hdrParse B).da.toNat = memRead B 12 4 ∧ (hdrParse B).vseq.toNat = memRead B 16 4 ∧
    (hdrParse B).seq.toNat = memRead B 20 4 ∧ (hdrParse B).mctl.toNat = memRead B 24 4 ∧
    (hdrParse B).uls.toNat = memRead B 28 2 ∧ (hdrParse B).msz.toNat = memRead B 30 2 ∧
    (hdrParse B).madd.toNat = memRead B 32 4 ∧ (hdrParse B).mft.toNat = memRead B 36 1 ∧
    (hdrParse B).mrlt.toNat = memRead B 37 1 ∧ (hdrParse B).tcd.toNat = memRead B 40 2 ∧
    (hdrParse B).ver.toNat = memRead B 42 2 ∧ (hdrParse B).cad1.toNat = memRead B 44 2 ∧
    (hdrParse B).csz1.toNat = memRead B 46 2 ∧ (hdrParse B).cad2.toNat = memRead B 48 2 ∧
    (hdrParse B).csz2.toNat = memRead B 50 2 ∧ (hdrParse B).mode.toNat = memRead B 52 2 ∧
    (hdrParse B).ptype.toNat = memRead B 54 1 ∧ (hdrParse B).pri.toNat = memRead B 55 1 ∧
    (hdrParse B).cbn.toNat = memRead B 56 1 ∧ (hdrParse B).tbn.toNat = memRead B 57 1 ∧
    (hdrParse B).bsize.toNat = memRead B 58 2 ∧ (hdrParse B).lks.toNat = memRead B 60 1 ∧
    (hdrParse B).tw.toNat = memRead B 61 1 ∧ (hdrParse B).rct.toNat = memRead B 62 2

/-- R96, whole: record first, for every field value, as functions and as the operations HDR_ENC, LOOPBACK, HDR_DEC. -/
def Obligations.HeaderRoundTripRecordFirst : Prop :=
  (∀ h : Header, hdrParse (hdrBytes h) = h) ∧
  (∀ (s : State) (h : Header), s.config.legal = true → s.hdr = HdrReg.ofHeader h →
    ∃ t u v, exec (.hdrEnc true) s = .next t ∧ hostLoopback t = .next u ∧ exec .hdrDec u = .next v ∧
      v.hdr = HdrReg.ofHeader h)

/-- R97 and R99: bytes first; the two reserved bytes come back as zero, and those are the only bytes that can differ. -/
def Obligations.HeaderRoundTripBytesFirst : Prop :=
  (∀ b : Bytes, b.length = 64 → hdrBytes (hdrParse b) = (b.set 38 0x00#8).set 39 0x00#8) ∧
  (∀ b : Bytes, b.length = 64 →
    (hdrBytes (hdrParse b) = b ↔ readByte b 38 = some 0x00#8 ∧ readByte b 39 = some 0x00#8)) ∧
  (∀ b : Bytes, 64 < b.length → hdrBytes (hdrParse b) = ((b.take 64).set 38 0x00#8).set 39 0x00#8) ∧
  (∀ b : Bytes, (∃ h, hdrBytes h = b) ↔
    b.length = 64 ∧ readByte b 38 = some 0x00#8 ∧ readByte b 39 = some 0x00#8)

/-- R92 and R98, whole: both words, both output forms, UNWRITTEN and TOO_SHORT_TO_MARSHAL, under any KIND. -/
def Obligations.HdrEncWritesHeader : Prop :=
  decode 0x0010#16 = .ok (.hdrEnc false) ∧ decode 0x0110#16 = .ok (.hdrEnc true) ∧
  (∀ (s : State) (h : Header), s.hdr = HdrReg.ofHeader h →
    exec (.hdrEnc true) s = .next { s with outBuf := hdrBytes h, outLen := 64, status := 0x00#8 }) ∧
  (∀ (s : State) (h : Header), s.hdr = HdrReg.ofHeader h → 64 ≤ s.outBuf.length →
    exec (.hdrEnc false) s = .next { s with
      outBuf := hdrBytes h ++ s.outBuf.drop 64, outLen := 64, status := 0x00#8 }) ∧
  (∀ (s : State) (h : Header), s.hdr = HdrReg.ofHeader h → s.outBuf.length < 64 →
    exec (.hdrEnc false) s = .next { s with status := 0x02#8 }) ∧
  (∀ (s : State) (a : Bool) (f : HdrField), s.readRegister (.hdr f) = none →
    ∃ r, exec (.hdrEnc a) s = .fault (.unwritten r))

/-- R93, whole. -/
def Obligations.HdrDecReadsHeader : Prop :=
  decode 0x0011#16 = .ok .hdrDec ∧
  (∀ s : State, 64 ≤ s.inBuf.length →
    exec .hdrDec s = .next { s with
      hdr := HdrReg.ofHeader (hdrParse s.inBuf), kind := .none, name := Names.unwritten, payload := none,
      status := 0x00#8 }) ∧
  (∀ s : State, s.inBuf.length < 64 → exec .hdrDec s = .next { s with status := 0x01#8 })

/-! ### Names and constructors -/

/-- R100, whole: truncation, padding, and idempotence. -/
def Obligations.FitTenTruncatesOrPads : Prop :=
  (∀ s : Bytes, 10 ≤ s.length → fit10 s = s.take 10) ∧
  (∀ s : Bytes, s.length < 10 → fit10 s = s ++ List.replicate (10 - s.length) 0x20#8) ∧
  (∀ s : Bytes, (fit10 s).length = 10 ∧ fit10 (fit10 s) = fit10 s)

/-- R101, whole. -/
def Obligations.FitTenStoresNames : Prop :=
  decode 0x0020#16 = .ok .fit10 ∧
  (∀ (s : State) (a b c : Bytes), s.carg.nameIn = Names.ofStrings a b c →
    exec .fit10 s = .next { s with name := Names.ofStrings (fit10 a) (fit10 b) (fit10 c), status := 0x00#8 }) ∧
  (∀ (s : State) (i : NameIndex), s.readRegister (.nameIn i) = none → ∃ r, exec .fit10 s = .fault (.unwritten r))

/-- R102: the header a constructor builds, field by field. -/
def Obligations.ConstructorHeaderFields : Prop :=
  ∀ (c : Config) (g : CargScalars) (tcd : BitVec 16) (total : Nat), total < 65536 →
    let h := mkHdr c g tcd total
    h.ftt = c.frameTypeTag ∧ h.tfl.toNat = total ∧ h.bsize.toNat = total ∧ h.tcd = tcd ∧
    h.sa = 0x00010000#32 ||| g.srcNode.setWidth 32 ∧ h.da = 0x00010000#32 ||| g.dstNode.setWidth 32 ∧
    h.mctl = (g.thFlag.setWidth 32 <<< 31) ||| (g.partFlag.setWidth 32 <<< 30) ∧
    h.mode = (g.minor.setWidth 16 <<< 8) ||| (g.major.setWidth 16 <<< 4) ||| g.tmode.setWidth 16 ∧
    h.vseq = g.vseq ∧ h.seq = g.seq ∧ h.uls = g.uls ∧ h.msz = g.msz ∧ h.madd = g.madd ∧ h.mft = g.mft ∧
    h.mrlt = g.mrlt ∧ h.ver = g.ver ∧ h.cad1 = g.cad1 ∧ h.csz1 = g.csz1 ∧ h.cad2 = g.cad2 ∧ h.csz2 = g.csz2 ∧
    h.ptype = g.ptype ∧ h.pri = g.pri ∧ h.cbn = g.cbn ∧ h.tbn = g.tbn ∧ h.lks = g.lks ∧ h.tw = g.tw ∧ h.rct = g.rct

/-- R103, whole. -/
def Obligations.MkTokenBuildsToken : Prop :=
  decode 0x0021#16 = .ok .mkToken ∧
  (∀ (s : State) (g : CargScalars) (n : Names) (p : Option Bytes), s.carg = Carg.ofScalars g n p →
    exec .mkToken s = .next { s with
      hdr := HdrReg.ofHeader (mkHdr s.config g s.config.typecodeToken 64), kind := .token, name := Names.unwritten,
      payload := none, status := 0x00#8 }) ∧
  (∀ (s : State) (f : CargField), s.readRegister (.carg f) = none → ∃ r, exec .mkToken s = .fault (.unwritten r))

/-- R104, whole. -/
def Obligations.MkTrigBuildsTrigger : Prop :=
  decode 0x0022#16 = .ok .mkTrig ∧
  (∀ (s : State) (g : CargScalars) (a b c : Bytes) (p : Option Bytes),
    s.carg = Carg.ofScalars g (Names.ofStrings a b c) p →
    exec .mkTrig s = .next { s with
      hdr := HdrReg.ofHeader (mkHdr s.config g s.config.typecodeTrigger 96), kind := .trigger,
      name := Names.ofStrings (fit10 a) (fit10 b) (fit10 c), payload := none, status := 0x00#8 }) ∧
  (∀ (s : State) (f : CargField), s.readRegister (.carg f) = none → ∃ r, exec .mkTrig s = .fault (.unwritten r)) ∧
  (∀ (s : State) (i : NameIndex), s.readRegister (.nameIn i) = none → ∃ r, exec .mkTrig s = .fault (.unwritten r))

/-- R105, whole. -/
def Obligations.MkPreqBuildsRequest : Prop :=
  decode 0x0023#16 = .ok .mkPreq ∧
  (∀ (s : State) (g : CargScalars) (a b c : Bytes) (p : Option Bytes),
    s.carg = Carg.ofScalars g (Names.ofStrings a b c) p →
    exec .mkPreq s = .next { s with
      hdr := HdrReg.ofHeader (mkHdr s.config g s.config.typecodePreq 96), kind := .preq,
      name := Names.ofStrings (fit10 a) (fit10 b) (fit10 c), payload := none, status := 0x00#8 }) ∧
  (∀ (s : State) (f : CargField), s.readRegister (.carg f) = none → ∃ r, exec .mkPreq s = .fault (.unwritten r)) ∧
  (∀ (s : State) (i : NameIndex), s.readRegister (.nameIn i) = none → ∃ r, exec .mkPreq s = .fault (.unwritten r))

/-- R106, whole: UNWRITTEN takes precedence over ARG_OUT_OF_RANGE. -/
def Obligations.MkCycBuildsCyclic : Prop :=
  decode 0x0024#16 = .ok .mkCyc ∧
  (∀ (s : State) (g : CargScalars) (n : Names) (p : Bytes), s.carg = Carg.ofScalars g n (some p) → p.length ≤ 65471 →
    exec .mkCyc s = .next { s with
      hdr := HdrReg.ofHeader (mkHdr s.config g s.config.typecodeCyclic (64 + p.length)), kind := .cyclic,
      name := Names.unwritten, payload := some p, status := 0x00#8 }) ∧
  (∀ (s : State) (g : CargScalars) (n : Names) (p : Bytes), s.carg = Carg.ofScalars g n (some p) → 65471 < p.length →
    exec .mkCyc s = .next { s with status := 0x7E#8 }) ∧
  (∀ (s : State) (f : CargField), s.readRegister (.carg f) = none → ∃ r, exec .mkCyc s = .fault (.unwritten r)) ∧
  (∀ s : State, s.carg.payloadIn = none → ∃ r, exec .mkCyc s = .fault (.unwritten r))

/-! ### Variant encodes and decodes -/

/-- R107, whole. -/
def Obligations.TokenEncWritesFrame : Prop :=
  decode 0x0030#16 = .ok (.tokenEnc false) ∧ decode 0x0130#16 = .ok (.tokenEnc true) ∧
  (∀ (s : State) (h : Header), s.kind = .token → s.hdr = HdrReg.ofHeader h →
    exec (.tokenEnc true) s = .next { s with outBuf := hdrBytes h, outLen := 64, status := 0x00#8 }) ∧
  (∀ (s : State) (h : Header), s.kind = .token → s.hdr = HdrReg.ofHeader h → 64 ≤ s.outBuf.length →
    exec (.tokenEnc false) s = .next { s with
      outBuf := hdrBytes h ++ s.outBuf.drop 64, outLen := 64, status := 0x00#8 }) ∧
  (∀ (s : State) (h : Header), s.kind = .token → s.hdr = HdrReg.ofHeader h → s.outBuf.length < 64 →
    exec (.tokenEnc false) s = .next { s with status := 0x02#8 }) ∧
  (∀ (s : State) (a : Bool) (f : HdrField), s.kind = .token → s.readRegister (.hdr f) = none →
    ∃ r, exec (.tokenEnc a) s = .fault (.unwritten r)) ∧
  (∀ (s : State) (a : Bool), s.kind ≠ .token → exec (.tokenEnc a) s = .next { s with status := 0x7F#8 })

/-- R108, whole. -/
def Obligations.TokenDecReadsFrame : Prop :=
  decode 0x0031#16 = .ok .tokenDec ∧
  (∀ s : State, 64 ≤ s.inBuf.length →
    exec .tokenDec s = .next { s with
      hdr := HdrReg.ofHeader (hdrParse s.inBuf), kind := .token, name := Names.unwritten, payload := none,
      status := 0x00#8 }) ∧
  (∀ s : State, s.inBuf.length < 64 → exec .tokenDec s = .next { s with status := 0x01#8 })

/-- R68, R69 and R109: the 96 bytes of a participation frame, entry by entry. -/
def Obligations.ParticipationLayout : Prop :=
  ∀ (h : Header) (a b c : Bytes),
    (partBytes h (a, b, c)).length = 96 ∧ memReadBytes (partBytes h (a, b, c)) 0 64 = hdrBytes h ∧
    memReadBytes (partBytes h (a, b, c)) 64 10 = fit10 a ∧ memReadBytes (partBytes h (a, b, c)) 74 10 = fit10 b ∧
    memReadBytes (partBytes h (a, b, c)) 84 10 = fit10 c ∧
    memReadBytes (partBytes h (a, b, c)) 94 2 = [0x00#8, 0x00#8]

/-- R111, whole. -/
def Obligations.TrigEncWritesFrame : Prop :=
  decode 0x0032#16 = .ok (.trigEnc false) ∧ decode 0x0132#16 = .ok (.trigEnc true) ∧
  (∀ (s : State) (h : Header) (a b c : Bytes),
    s.kind = .trigger → s.hdr = HdrReg.ofHeader h → s.name = Names.ofStrings a b c →
    exec (.trigEnc true) s = .next { s with outBuf := partBytes h (a, b, c), outLen := 96, status := 0x00#8 }) ∧
  (∀ (s : State) (h : Header) (a b c : Bytes),
    s.kind = .trigger → s.hdr = HdrReg.ofHeader h → s.name = Names.ofStrings a b c → 96 ≤ s.outBuf.length →
    exec (.trigEnc false) s = .next { s with
      outBuf := partBytes h (a, b, c) ++ s.outBuf.drop 96, outLen := 96, status := 0x00#8 }) ∧
  (∀ (s : State) (h : Header) (a b c : Bytes),
    s.kind = .trigger → s.hdr = HdrReg.ofHeader h → s.name = Names.ofStrings a b c → s.outBuf.length < 96 →
    exec (.trigEnc false) s = .next { s with status := 0x02#8 }) ∧
  (∀ (s : State) (x : Bool) (f : HdrField), s.kind = .trigger → s.readRegister (.hdr f) = none →
    ∃ r, exec (.trigEnc x) s = .fault (.unwritten r)) ∧
  (∀ (s : State) (x : Bool) (i : NameIndex), s.kind = .trigger → s.readRegister (.name i) = none →
    ∃ r, exec (.trigEnc x) s = .fault (.unwritten r)) ∧
  (∀ (s : State) (x : Bool), s.kind ≠ .trigger → exec (.trigEnc x) s = .next { s with status := 0x7F#8 })

/-- R112, whole. -/
def Obligations.TrigDecReadsFrame : Prop :=
  decode 0x0033#16 = .ok .trigDec ∧
  (∀ s : State, 96 ≤ s.inBuf.length →
    exec .trigDec s = .next { s with
      hdr := HdrReg.ofHeader (hdrParse s.inBuf), kind := .trigger,
      name := Names.ofStrings (memReadBytes s.inBuf 64 10) (memReadBytes s.inBuf 74 10) (memReadBytes s.inBuf 84 10),
      payload := none, status := 0x00#8 }) ∧
  (∀ s : State, s.inBuf.length < 96 → exec .trigDec s = .next { s with status := 0x01#8 })

/-- R113, whole. -/
def Obligations.PreqEncWritesFrame : Prop :=
  decode 0x0034#16 = .ok (.preqEnc false) ∧ decode 0x0134#16 = .ok (.preqEnc true) ∧
  (∀ (s : State) (h : Header) (a b c : Bytes),
    s.kind = .preq → s.hdr = HdrReg.ofHeader h → s.name = Names.ofStrings a b c →
    exec (.preqEnc true) s = .next { s with outBuf := partBytes h (a, b, c), outLen := 96, status := 0x00#8 }) ∧
  (∀ (s : State) (h : Header) (a b c : Bytes),
    s.kind = .preq → s.hdr = HdrReg.ofHeader h → s.name = Names.ofStrings a b c → 96 ≤ s.outBuf.length →
    exec (.preqEnc false) s = .next { s with
      outBuf := partBytes h (a, b, c) ++ s.outBuf.drop 96, outLen := 96, status := 0x00#8 }) ∧
  (∀ (s : State) (h : Header) (a b c : Bytes),
    s.kind = .preq → s.hdr = HdrReg.ofHeader h → s.name = Names.ofStrings a b c → s.outBuf.length < 96 →
    exec (.preqEnc false) s = .next { s with status := 0x02#8 }) ∧
  (∀ (s : State) (x : Bool) (f : HdrField), s.kind = .preq → s.readRegister (.hdr f) = none →
    ∃ r, exec (.preqEnc x) s = .fault (.unwritten r)) ∧
  (∀ (s : State) (x : Bool) (i : NameIndex), s.kind = .preq → s.readRegister (.name i) = none →
    ∃ r, exec (.preqEnc x) s = .fault (.unwritten r)) ∧
  (∀ (s : State) (x : Bool), s.kind ≠ .preq → exec (.preqEnc x) s = .next { s with status := 0x7F#8 })

/-- R114, whole. -/
def Obligations.PreqDecReadsFrame : Prop :=
  decode 0x0035#16 = .ok .preqDec ∧
  (∀ s : State, 96 ≤ s.inBuf.length →
    exec .preqDec s = .next { s with
      hdr := HdrReg.ofHeader (hdrParse s.inBuf), kind := .preq,
      name := Names.ofStrings (memReadBytes s.inBuf 64 10) (memReadBytes s.inBuf 74 10) (memReadBytes s.inBuf 84 10),
      payload := none, status := 0x00#8 }) ∧
  (∀ s : State, s.inBuf.length < 96 → exec .preqDec s = .next { s with status := 0x01#8 })

/-- R115, whole: the length fields of HDR are not compared with the frame's length. -/
def Obligations.CycEncWritesFrame : Prop :=
  decode 0x0036#16 = .ok (.cycEnc false) ∧ decode 0x0136#16 = .ok (.cycEnc true) ∧
  (∀ (s : State) (h : Header) (p : Bytes), s.kind = .cyclic → s.hdr = HdrReg.ofHeader h → s.payload = some p →
    exec (.cycEnc true) s = .next { s with outBuf := hdrBytes h ++ p, outLen := 64 + p.length, status := 0x00#8 }) ∧
  (∀ (s : State) (h : Header) (p : Bytes), s.kind = .cyclic → s.hdr = HdrReg.ofHeader h → s.payload = some p →
    64 + p.length ≤ s.outBuf.length →
    exec (.cycEnc false) s = .next { s with
      outBuf := hdrBytes h ++ p ++ s.outBuf.drop (64 + p.length), outLen := 64 + p.length, status := 0x00#8 }) ∧
  (∀ (s : State) (h : Header) (p : Bytes), s.kind = .cyclic → s.hdr = HdrReg.ofHeader h → s.payload = some p →
    s.outBuf.length < 64 + p.length → exec (.cycEnc false) s = .next { s with status := 0x02#8 }) ∧
  (∀ (s : State) (a : Bool) (f : HdrField), s.kind = .cyclic → s.readRegister (.hdr f) = none →
    ∃ r, exec (.cycEnc a) s = .fault (.unwritten r)) ∧
  (∀ (s : State) (a : Bool), s.kind = .cyclic → s.payload = none →
    ∃ r, exec (.cycEnc a) s = .fault (.unwritten r)) ∧
  (∀ (s : State) (a : Bool), s.kind ≠ .cyclic → exec (.cycEnc a) s = .next { s with status := 0x7F#8 })

/-- R116, whole: the payload is the whole remainder of IN_BUF. -/
def Obligations.CycDecReadsFrame : Prop :=
  decode 0x0037#16 = .ok .cycDec ∧
  (∀ s : State, 64 ≤ s.inBuf.length →
    exec .cycDec s = .next { s with
      hdr := HdrReg.ofHeader (hdrParse s.inBuf), kind := .cyclic, name := Names.unwritten,
      payload := some (s.inBuf.drop 64), status := 0x00#8 }) ∧
  (∀ s : State, s.inBuf.length < 64 → exec .cycDec s = .next { s with status := 0x01#8 })

/-! ### Round trips of the variants -/

/-- R120, whole: TOKEN_ENC.A, LOOPBACK, TOKEN_DEC; and from a well-formed capture, TOKEN_DEC, TOKEN_ENC.A. -/
def Obligations.TokenRoundTrip : Prop :=
  (∀ (s : State) (h : Header), s.config.legal = true → s.kind = .token → s.hdr = HdrReg.ofHeader h →
    ∃ t u v, exec (.tokenEnc true) s = .next t ∧ hostLoopback t = .next u ∧ exec .tokenDec u = .next v ∧
      v.hdr = s.hdr ∧ v.kind = .token) ∧
  (∀ s : State, s.inBuf.length = 64 → readByte s.inBuf 38 = some 0x00#8 → readByte s.inBuf 39 = some 0x00#8 →
    ∃ t u, exec .tokenDec s = .next t ∧ exec (.tokenEnc true) t = .next u ∧ u.outBuf = s.inBuf)

/-- R121, whole: names come back fitted, so names of exactly 10 bytes come back as they were; bytes first, the four reserved
bytes come back as zero. -/
def Obligations.ParticipationRoundTrip : Prop :=
  (∀ (s : State) (h : Header) (a b c : Bytes), s.config.legal = true → s.kind = .trigger → s.hdr = HdrReg.ofHeader h →
    s.name = Names.ofStrings a b c →
    ∃ t u v, exec (.trigEnc true) s = .next t ∧ hostLoopback t = .next u ∧ exec .trigDec u = .next v ∧
      v.hdr = s.hdr ∧ v.kind = .trigger ∧ v.name = Names.ofStrings (fit10 a) (fit10 b) (fit10 c) ∧
      (a.length = 10 → b.length = 10 → c.length = 10 → v.name = s.name)) ∧
  (∀ (s : State) (h : Header) (a b c : Bytes), s.config.legal = true → s.kind = .preq → s.hdr = HdrReg.ofHeader h →
    s.name = Names.ofStrings a b c →
    ∃ t u v, exec (.preqEnc true) s = .next t ∧ hostLoopback t = .next u ∧ exec .preqDec u = .next v ∧
      v.hdr = s.hdr ∧ v.kind = .preq ∧ v.name = Names.ofStrings (fit10 a) (fit10 b) (fit10 c) ∧
      (a.length = 10 → b.length = 10 → c.length = 10 → v.name = s.name)) ∧
  (∀ s : State, s.inBuf.length = 96 →
    ∃ t u, exec .trigDec s = .next t ∧ exec (.trigEnc true) t = .next u ∧
      u.outBuf = (((s.inBuf.set 38 0x00#8).set 39 0x00#8).set 94 0x00#8).set 95 0x00#8) ∧
  (∀ s : State, s.inBuf.length = 96 →
    ∃ t u, exec .preqDec s = .next t ∧ exec (.preqEnc true) t = .next u ∧
      u.outBuf = (((s.inBuf.set 38 0x00#8).set 39 0x00#8).set 94 0x00#8).set 95 0x00#8)

/-- R122, whole: the Cyclic round trip, and its limit where IN_BUF holds trailing bytes. The frame fits a buffer (R30). -/
def Obligations.CyclicRoundTripAndItsLimit : Prop :=
  ∀ (s : State) (h : Header) (p g : Bytes), s.kind = .cyclic → s.hdr = HdrReg.ofHeader h → s.payload = some p →
    64 + p.length ≤ s.config.maxBufLen →
    ∃ t u v w, exec (.cycEnc true) s = .next t ∧ hostLoopback t = .next u ∧ exec .cycDec u = .next v ∧
      v.hdr = s.hdr ∧ v.payload = s.payload ∧ v.kind = .cyclic ∧
      exec .cycDec { u with inBuf := u.inBuf ++ g } = .next w ∧ w.payload = some (p ++ g) ∧ w.hdr = s.hdr

/-! ### The dispatcher -/

/-- R128, R129 and R130: every case of PARSE, under a configuration of R7. -/
def Obligations.ParseDispatches : Prop :=
  decode 0x0040#16 = .ok .parse ∧
  (∀ s : State, s.inBuf.length < 64 → exec .parse s = .next { s with status := 0x01#8 }) ∧
  (∀ s : State, s.config.legal = true → 64 ≤ s.inBuf.length → memRead s.inBuf 40 2 = s.config.typecodeToken.toNat →
    exec .parse s = .next { s with
      hdr := HdrReg.ofHeader (hdrParse s.inBuf), kind := .token, name := Names.unwritten, payload := none,
      status := 0x00#8 }) ∧
  (∀ s : State, s.config.legal = true → 96 ≤ s.inBuf.length → memRead s.inBuf 40 2 = s.config.typecodeTrigger.toNat →
    exec .parse s = .next { s with
      hdr := HdrReg.ofHeader (hdrParse s.inBuf), kind := .trigger,
      name := Names.ofStrings (memReadBytes s.inBuf 64 10) (memReadBytes s.inBuf 74 10) (memReadBytes s.inBuf 84 10),
      payload := none, status := 0x00#8 }) ∧
  (∀ s : State, s.config.legal = true → 64 ≤ s.inBuf.length → s.inBuf.length < 96 →
    memRead s.inBuf 40 2 = s.config.typecodeTrigger.toNat → exec .parse s = .next { s with status := 0x81#8 }) ∧
  (∀ s : State, s.config.legal = true → 64 ≤ s.inBuf.length → memRead s.inBuf 40 2 ≠ s.config.typecodeToken.toNat →
    memRead s.inBuf 40 2 ≠ s.config.typecodeTrigger.toNat → exec .parse s = .next { s with status := 0x03#8 })

/-- R132: PARSE selects on the type code alone. Two buffers of one length with the same bytes 40 and 41 end with the same
STATUS and the same KIND. -/
def Obligations.ParseSelectsOnTypeCodeAlone : Prop :=
  ∀ (s : State) (B : Bytes), B.length = s.inBuf.length → readByte B 40 = readByte s.inBuf 40 →
    readByte B 41 = readByte s.inBuf 41 →
    ∃ t u, exec .parse s = .next t ∧ exec .parse { s with inBuf := B } = .next u ∧
      u.status = t.status ∧ u.kind = t.kind

/-- R133's end-to-end round trip: MK_TOKEN, TOKEN_ENC.A, LOOPBACK, PARSE leaves KIND = TOKEN and the header MK_TOKEN built;
and the same for a Trigger, whose names come back as MK_TRIG stored them. -/
def Obligations.DispatchEndToEnd : Prop :=
  (∀ (s : State) (g : CargScalars) (n : Names) (p : Option Bytes), s.config.legal = true →
    s.carg = Carg.ofScalars g n p →
    ∃ t u v w, exec .mkToken s = .next t ∧ exec (.tokenEnc true) t = .next u ∧ hostLoopback u = .next v ∧
      exec .parse v = .next w ∧ w.status = 0x00#8 ∧ w.kind = .token ∧ w.hdr = t.hdr) ∧
  (∀ (s : State) (g : CargScalars) (a b c : Bytes) (p : Option Bytes), s.config.legal = true →
    s.carg = Carg.ofScalars g (Names.ofStrings a b c) p →
    ∃ t u v w, exec .mkTrig s = .next t ∧ exec (.trigEnc true) t = .next u ∧ hostLoopback u = .next v ∧
      exec .parse v = .next w ∧ w.status = 0x00#8 ∧ w.kind = .trigger ∧ w.hdr = t.hdr ∧ w.name = t.name)

/-! ### The command word -/

/-- A few words of R73's table and R75's examples, written out. -/
def Obligations.CommandWordsDecode : Prop :=
  decode 0x0001#16 = .ok .packCtl ∧ decode 0x0110#16 = .ok (.hdrEnc true) ∧ decode 0x0024#16 = .ok .mkCyc ∧
    decode 0x0036#16 = .ok (.cycEnc false) ∧ decode 0x0040#16 = .ok .parse ∧
    decode 0x0131#16 = .error .allocateNotAllowed ∧ decode 0x0041#16 = .error .unassignedOp ∧
    decode 0x8030#16 = .error .reservedBits

/-- Decode and encode agree, both ways, on every operation and on every 16-bit word: each operation has exactly one word
(R72 to R74). -/
def Obligations.CommandDecodeEncodeAgree : Prop :=
  ∀ (w : CommandWord) (i : Instr), decode w = .ok i ↔ encode i = w

/-- R75: the decoder accepts exactly the words that meet none of the rule's three conditions, and an illegal word changes
nothing but STATUS (and CMD, which holds the host's write, R18). -/
def Obligations.IllegalWordsAreRejected : Prop :=
  (∀ w : CommandWord, (∃ i, decode w = .ok i) ↔ commandLegal w = true) ∧
  (∀ (w : CommandWord) (s : State), commandLegal w = false →
    issueCommand w s = .next { s with cmd := w, status := 0x7F#8 })

/-! ### What holds of every command -/

/-- R136, whole: a command that ends with an error changes STATUS alone; CMD holds the host's write. -/
def Obligations.ErrorsChangeOnlyStatus : Prop :=
  ∀ (w : CommandWord) (s t : State), issueCommand w s = .next t → t.status ≠ 0x00#8 →
    t = { s with cmd := w, status := t.status }

/-- R80 and R152: a command ends with one of the listed status codes or with UNWRITTEN, and in no other way. -/
def Obligations.EveryCommandEndsInOneClass : Prop :=
  ∀ (w : CommandWord) (s : State),
    (∃ t, issueCommand w s = .next t ∧ t.status ∈ listedStatus) ∨
      ∃ r, issueCommand w s = .fault (.unwritten r)

/-- R82, R139 steps 2 and 3, R141: an operation faults exactly when its KIND check passes and a register of its read set
holds ⊥; the fault names such a register (which one, of several, is the model's choice: notes/assumptions/3.md). -/
def Obligations.UnwrittenExactlyOnReadSet : Prop :=
  (∀ (i : Instr) (s : State), (∃ r, exec i s = .fault (.unwritten r)) ↔
    kindAllows i s ∧ ∃ r ∈ readSet i, s.readRegister r = none) ∧
  (∀ (i : Instr) (s : State) (r : Register), exec i s = .fault (.unwritten r) →
    r ∈ readSet i ∧ s.readRegister r = none)

/-- R19, R143: no operation reads STATUS, so an unread error affects no later command. -/
def Obligations.StatusIsNeverRead : Prop :=
  ∀ (i : Instr) (s : State) (v : BitVec 8), exec i { s with status := v } = exec i s

/-- R34, R42: which registers an operation can change. No operation writes CMD, IN_BUF, the configuration or the host's
program; only encodes write OUT_BUF and OUT_LEN; KIND and PAYLOAD are written by constructors, decodes and PARSE only, NAME by
those and FIT10, CARG by the two unpack operations, HDR by those constructors, decodes and PARSE and the packing operations. -/
def Obligations.OperationsWriteOnlyTheirRegisters : Prop :=
  ∀ (i : Instr) (s t : State), exec i s = .next t →
    t.cmd = s.cmd ∧ t.config = s.config ∧ t.host = s.host ∧
    (∀ k, readByte t.inBuf k = readByte s.inBuf k) ∧
    (isEncode i = false → t.outLen = s.outLen ∧ ∀ k, readByte t.outBuf k = readByte s.outBuf k) ∧
    (writesVariant i = false → t.kind = s.kind ∧ t.payload = s.payload) ∧
    (writesVariant i = false → i ≠ .fit10 → t.name = s.name) ∧
    (i ≠ .unpackCtl → i ≠ .unpackMode → t.carg = s.carg) ∧
    (writesVariant i = false → i ≠ .packCtl → i ≠ .packMode → i ≠ .makeAddr → t.hdr = s.hdr)

/-- R91, R162: the bytes an encode stores. On success OUT_LEN is the frame's length, the frame stands at offsets 0 to
OUT_LEN - 1, and every byte from OUT_LEN on is unchanged with A = 0 and absent with A = 1. -/
def Obligations.EncodeStoresExactlyTheFrame : Prop :=
  ∀ (i : Instr) (s t : State) (f : Bytes), storedFrame i s = some f → exec i s = .next t → t.status = 0x00#8 →
    t.outLen = f.length ∧ (∀ k, k < f.length → readByte t.outBuf k = readByte f k) ∧
    (∀ k, f.length ≤ k → readByte t.outBuf k = if i.allocateBit then none else readByte s.outBuf k)

/-- R124: what a decode or PARSE leaves in the variant register on success, and its STATUS, depend on IN_BUF alone. -/
def Obligations.DecodesDependOnInputAlone : Prop :=
  ∀ (i : Instr) (s u : State), i ∈ decodeOperations → s.inBuf = u.inBuf → s.config = u.config →
    ∃ t v, exec i s = .next t ∧ exec i u = .next v ∧ t.status = v.status ∧
      (t.status = 0x00#8 → t.hdr = v.hdr ∧ t.kind = v.kind ∧ t.name = v.name ∧ t.payload = v.payload)

/-- R33, R38: right after a constructor, a decode or PARSE succeeds, the body registers the variant owns hold a value and
the others hold ⊥. -/
def Obligations.VariantOwnsItsBody : Prop :=
  ∀ (i : Instr) (s t : State), writesVariant i = true → exec i s = .next t → t.status = 0x00#8 →
    ownsBody t.kind t.name t.payload

/-- R118, R119: a constructor that succeeds sets KIND, and TFL and BSIZE to the length of the very frame its variant's
encode then produces. -/
def Obligations.ConstructorsKeepLengthsConsistent : Prop :=
  ∀ (c e : Instr) (k : Kind) (s t : State), (c, e, k) ∈ constructors → exec c s = .next t → t.status = 0x00#8 →
    t.kind = k ∧ ∃ u, exec e t = .next u ∧ u.status = 0x00#8 ∧ u.outBuf.length = u.outLen ∧
      t.hdr.tfl.map BitVec.toNat = some u.outLen ∧ t.hdr.bsize.map BitVec.toNat = some u.outLen

/-! ### The step, the host and reset -/

/-- A step issues the next command of the host's program: it holds the word in CMD, drops the entry, and runs the decoded
operation (R17, R18, R72). -/
def Obligations.StepRunsTheDecodedOperation : Prop :=
  ∀ (s : State) (w : CommandWord) (rest : List HostEntry) (i : Instr), s.config.legal = true →
    s.host = .command w :: rest → decode w = .ok i → step s = exec i { s with cmd := w, host := rest }

/-- R79: a host write its register can hold is read back, and no other register or view changes. One it cannot hold is
refused (the model's choice: notes/assumptions/6.md). -/
def Obligations.HostWritesOneRegister : Prop :=
  (∀ (a : HostWrite) (s : State), a.overfills s.config = none →
    ∃ t, hostWrite a s = .next t ∧ t.readRegister a.target = some a.value ∧
      (∀ r, r ∉ a.touched → t.readRegister r = s.readRegister r) ∧ t.config = s.config ∧ t.host = s.host) ∧
  (∀ (b : Bytes) (s : State), s.config.maxBufLen < b.length →
    hostWrite (.inBuf b) s = .refused (.stringTooLong .inBuf) ∧
      hostWrite (.outBuf b) s = .refused (.stringTooLong .outBuf))

/-- R79: LOOPBACK copies OUT_BUF[0..OUT_LEN) to IN_BUF and changes nothing else; a host check has no effect, whatever its
register holds, and its assertion is true exactly where the register holds the value. That LOOPBACK is refused where
OUT_LEN > OUT_CAP, and that a check of ⊥ is false and no stop, is the model's choice (notes/assumptions/8.md, 7.md). -/
def Obligations.HostLoopbackAndCheck : Prop :=
  (∀ s : State, s.outLen ≤ s.outBuf.length → s.outLen ≤ s.config.maxBufLen →
    hostLoopback s = .next { s with inBuf := s.outBuf.take s.outLen }) ∧
  (∀ s : State, s.outBuf.length < s.outLen → hostLoopback s = .refused .loopbackOutOfRange) ∧
  (∀ (s : State) (r : Register) (v : RegValue), runEntry (.check r v) s = .next s) ∧
  (∀ (s : State) (r : Register) (v : RegValue), checkHolds r v s = true ↔ s.readRegister r = some v)

/-- R37, R154: every register at its reset value, under every configuration, which reset does not change (R156). -/
def Obligations.ResetValues : Prop :=
  ∀ c : Config, (State.resetWith c).config = c ∧ (State.resetWith c).cmd = 0x0000#16 ∧
    (State.resetWith c).status = 0x00#8 ∧ (State.resetWith c).inBuf = [] ∧ (State.resetWith c).outBuf = [] ∧
    (State.resetWith c).outLen = 0 ∧ (State.resetWith c).kind = .none ∧
    (∀ f, (State.resetWith c).readRegister (.hdr f) = none) ∧ (∀ i, (State.resetWith c).readRegister (.name i) = none) ∧
    (State.resetWith c).readRegister .payload = none ∧ (∀ f, (State.resetWith c).readRegister (.carg f) = none) ∧
    (∀ i, (State.resetWith c).readRegister (.nameIn i) = none) ∧ (State.resetWith c).readRegister .payloadIn = none

/-- R154, R156: where the next entry is the reset event, the step puts every register at its reset value and leaves the
configuration and the rest of the host's program as they were. That reset is an entry of that program is the model's choice
(notes/assumptions/21.md). -/
def Obligations.ResetEventRestoresResetValues : Prop :=
  ∀ (s : State) (rest : List HostEntry), s.config.legal = true → s.host = .reset :: rest →
    ∃ t, step s = .next t ∧ t.config = s.config ∧ t.host = rest ∧
      ∀ r, t.readRegister r = (State.resetWith s.config).readRegister r

/-- With no entry of the host's program left the block holds its state (R151; that the model then answers the same state,
and not a stop, is its choice: notes/assumptions/5.md). -/
def Obligations.IdleHoldsState : Prop :=
  ∀ s : State, s.config.legal = true → s.host = [] → step s = .next s

/-- R7, R127, R157: exactly the configurations that meet every constraint of R7 are legal, and any other is refused. -/
def Obligations.IllegalConfigurationIsRefused : Prop :=
  (∀ c : Config, c.legal = true ↔
    (∀ b ∈ Tag.bytes c.frameTypeTag, b.toNat ≤ 0x7F) ∧
    (∀ v ∈ [c.typecodeToken, c.typecodeTrigger, c.typecodePreq, c.typecodeCyclic], 65000 ≤ v.toNat) ∧
    c.typecodeTrigger ≠ c.typecodeToken ∧ c.typecodePreq ≠ c.typecodeTrigger ∧ 96 ≤ c.maxBufLen) ∧
  (∀ s : State, s.config.legal = false → step s = .refused .illegalConfiguration)

/-- R36: no operation and no host access changes the configuration. -/
def Obligations.ConfigurationIsFixed : Prop :=
  ∀ s t : State, step s = .next t → t.config = s.config

/-- The invariant at reset, under every configuration (R37). -/
def Obligations.ResetMeetsInvariant : Prop :=
  ∀ c : Config, (State.resetWith c).Inv

/-- R20, R21, R29, R30, R32, R80: every step keeps the bounds of the byte-string registers and the listed values of
STATUS, from every state that has them. -/
def Obligations.StepKeepsInvariant : Prop :=
  ∀ s t : State, s.Inv → step s = .next t → t.Inv

/-- R58, R150: a step of an instance leaves every other instance as it was, even where it ends that instance's own run;
steps of different instances commute; and a system with a shared buffer is refused. That one instance's stop leaves the
others running is read from R58's same results in any interleaving (notes/assumptions/22.md). -/
def Obligations.InstancesAreIndependent : Prop :=
  (∀ (sys : List Placed) (n : Nat) (p : Placed), buffersDistinct sys = true → sys[n]? = some p →
    ∃ x, systemStep n sys = .next x ∧ x[n]? = some { p with run := p.run.advance } ∧ ∀ m, m ≠ n → x[m]? = sys[m]?) ∧
  (∀ (sys x y : List Placed) (m n : Nat), m ≠ n → systemStep m sys = .next x → systemStep n x = .next y →
    ∃ z, systemStep n sys = .next z ∧ systemStep m z = .next y) ∧
  (∀ (sys : List Placed) (n : Nat), buffersDistinct sys = false → systemStep n sys = .refused .sharedBuffer)

/-- R58, D27: any interleaving gives the same results instance by instance. After a run of a system, each instance stands
as its own steps alone leave it, as many as the interleaving gives it, whatever the others do (notes/assumptions/22.md). -/
def Obligations.InterleavingsGiveTheSameResults : Prop :=
  ∀ (sys : List Placed) (schedule : List Nat), buffersDistinct sys = true → (∀ n ∈ schedule, n < sys.length) →
    ∃ out, systemRun schedule sys = .next out ∧
      ∀ k : Nat, out[k]? = sys[k]?.map fun p => { p with run := Run.advance^[schedule.count k] p.run }
end

