-- ==== Sys2Proof/Laws/State.lean ====
section
/-! SUPPORT. One lemma per field per named update of State, so that no later proof unfolds a record update. -/

namespace Sys2Proof.Machine

section
variable (s : State)

@[simp] theorem State.setCmd_config (w : CommandWord) : (s.setCmd w).config = s.config := rfl
@[simp] theorem State.setCmd_cmd (w : CommandWord) : (s.setCmd w).cmd = w := rfl
@[simp] theorem State.setCmd_status (w : CommandWord) : (s.setCmd w).status = s.status := rfl
@[simp] theorem State.setCmd_inBuf (w : CommandWord) : (s.setCmd w).inBuf = s.inBuf := rfl
@[simp] theorem State.setCmd_outBuf (w : CommandWord) : (s.setCmd w).outBuf = s.outBuf := rfl
@[simp] theorem State.setCmd_outLen (w : CommandWord) : (s.setCmd w).outLen = s.outLen := rfl
@[simp] theorem State.setCmd_hdr (w : CommandWord) : (s.setCmd w).hdr = s.hdr := rfl
@[simp] theorem State.setCmd_kind (w : CommandWord) : (s.setCmd w).kind = s.kind := rfl
@[simp] theorem State.setCmd_name (w : CommandWord) : (s.setCmd w).name = s.name := rfl
@[simp] theorem State.setCmd_payload (w : CommandWord) : (s.setCmd w).payload = s.payload := rfl
@[simp] theorem State.setCmd_carg (w : CommandWord) : (s.setCmd w).carg = s.carg := rfl
@[simp] theorem State.setCmd_host (w : CommandWord) : (s.setCmd w).host = s.host := rfl

@[simp] theorem State.setStatus_config (v : BitVec 8) : (s.setStatus v).config = s.config := rfl
@[simp] theorem State.setStatus_cmd (v : BitVec 8) : (s.setStatus v).cmd = s.cmd := rfl
@[simp] theorem State.setStatus_status (v : BitVec 8) : (s.setStatus v).status = v := rfl
@[simp] theorem State.setStatus_inBuf (v : BitVec 8) : (s.setStatus v).inBuf = s.inBuf := rfl
@[simp] theorem State.setStatus_outBuf (v : BitVec 8) : (s.setStatus v).outBuf = s.outBuf := rfl
@[simp] theorem State.setStatus_outLen (v : BitVec 8) : (s.setStatus v).outLen = s.outLen := rfl
@[simp] theorem State.setStatus_hdr (v : BitVec 8) : (s.setStatus v).hdr = s.hdr := rfl
@[simp] theorem State.setStatus_kind (v : BitVec 8) : (s.setStatus v).kind = s.kind := rfl
@[simp] theorem State.setStatus_name (v : BitVec 8) : (s.setStatus v).name = s.name := rfl
@[simp] theorem State.setStatus_payload (v : BitVec 8) : (s.setStatus v).payload = s.payload := rfl
@[simp] theorem State.setStatus_carg (v : BitVec 8) : (s.setStatus v).carg = s.carg := rfl
@[simp] theorem State.setStatus_host (v : BitVec 8) : (s.setStatus v).host = s.host := rfl

@[simp] theorem State.setInBuf_config (b : Bytes) : (s.setInBuf b).config = s.config := rfl
@[simp] theorem State.setInBuf_cmd (b : Bytes) : (s.setInBuf b).cmd = s.cmd := rfl
@[simp] theorem State.setInBuf_status (b : Bytes) : (s.setInBuf b).status = s.status := rfl
@[simp] theorem State.setInBuf_inBuf (b : Bytes) : (s.setInBuf b).inBuf = b := rfl
@[simp] theorem State.setInBuf_outBuf (b : Bytes) : (s.setInBuf b).outBuf = s.outBuf := rfl
@[simp] theorem State.setInBuf_outLen (b : Bytes) : (s.setInBuf b).outLen = s.outLen := rfl
@[simp] theorem State.setInBuf_hdr (b : Bytes) : (s.setInBuf b).hdr = s.hdr := rfl
@[simp] theorem State.setInBuf_kind (b : Bytes) : (s.setInBuf b).kind = s.kind := rfl
@[simp] theorem State.setInBuf_name (b : Bytes) : (s.setInBuf b).name = s.name := rfl
@[simp] theorem State.setInBuf_payload (b : Bytes) : (s.setInBuf b).payload = s.payload := rfl
@[simp] theorem State.setInBuf_carg (b : Bytes) : (s.setInBuf b).carg = s.carg := rfl
@[simp] theorem State.setInBuf_host (b : Bytes) : (s.setInBuf b).host = s.host := rfl

@[simp] theorem State.setOutBuf_config (b : Bytes) : (s.setOutBuf b).config = s.config := rfl
@[simp] theorem State.setOutBuf_cmd (b : Bytes) : (s.setOutBuf b).cmd = s.cmd := rfl
@[simp] theorem State.setOutBuf_status (b : Bytes) : (s.setOutBuf b).status = s.status := rfl
@[simp] theorem State.setOutBuf_inBuf (b : Bytes) : (s.setOutBuf b).inBuf = s.inBuf := rfl
@[simp] theorem State.setOutBuf_outBuf (b : Bytes) : (s.setOutBuf b).outBuf = b := rfl
@[simp] theorem State.setOutBuf_outLen (b : Bytes) : (s.setOutBuf b).outLen = s.outLen := rfl
@[simp] theorem State.setOutBuf_hdr (b : Bytes) : (s.setOutBuf b).hdr = s.hdr := rfl
@[simp] theorem State.setOutBuf_kind (b : Bytes) : (s.setOutBuf b).kind = s.kind := rfl
@[simp] theorem State.setOutBuf_name (b : Bytes) : (s.setOutBuf b).name = s.name := rfl
@[simp] theorem State.setOutBuf_payload (b : Bytes) : (s.setOutBuf b).payload = s.payload := rfl
@[simp] theorem State.setOutBuf_carg (b : Bytes) : (s.setOutBuf b).carg = s.carg := rfl
@[simp] theorem State.setOutBuf_host (b : Bytes) : (s.setOutBuf b).host = s.host := rfl

@[simp] theorem State.setOutput_config (b : Bytes) (n : Nat) : (s.setOutput b n).config = s.config := rfl
@[simp] theorem State.setOutput_cmd (b : Bytes) (n : Nat) : (s.setOutput b n).cmd = s.cmd := rfl
@[simp] theorem State.setOutput_status (b : Bytes) (n : Nat) : (s.setOutput b n).status = s.status := rfl
@[simp] theorem State.setOutput_inBuf (b : Bytes) (n : Nat) : (s.setOutput b n).inBuf = s.inBuf := rfl
@[simp] theorem State.setOutput_outBuf (b : Bytes) (n : Nat) : (s.setOutput b n).outBuf = b := rfl
@[simp] theorem State.setOutput_outLen (b : Bytes) (n : Nat) : (s.setOutput b n).outLen = n := rfl
@[simp] theorem State.setOutput_hdr (b : Bytes) (n : Nat) : (s.setOutput b n).hdr = s.hdr := rfl
@[simp] theorem State.setOutput_kind (b : Bytes) (n : Nat) : (s.setOutput b n).kind = s.kind := rfl
@[simp] theorem State.setOutput_name (b : Bytes) (n : Nat) : (s.setOutput b n).name = s.name := rfl
@[simp] theorem State.setOutput_payload (b : Bytes) (n : Nat) : (s.setOutput b n).payload = s.payload := rfl
@[simp] theorem State.setOutput_carg (b : Bytes) (n : Nat) : (s.setOutput b n).carg = s.carg := rfl
@[simp] theorem State.setOutput_host (b : Bytes) (n : Nat) : (s.setOutput b n).host = s.host := rfl

@[simp] theorem State.setHdr_config (h : HdrReg) : (s.setHdr h).config = s.config := rfl
@[simp] theorem State.setHdr_cmd (h : HdrReg) : (s.setHdr h).cmd = s.cmd := rfl
@[simp] theorem State.setHdr_status (h : HdrReg) : (s.setHdr h).status = s.status := rfl
@[simp] theorem State.setHdr_inBuf (h : HdrReg) : (s.setHdr h).inBuf = s.inBuf := rfl
@[simp] theorem State.setHdr_outBuf (h : HdrReg) : (s.setHdr h).outBuf = s.outBuf := rfl
@[simp] theorem State.setHdr_outLen (h : HdrReg) : (s.setHdr h).outLen = s.outLen := rfl
@[simp] theorem State.setHdr_hdr (h : HdrReg) : (s.setHdr h).hdr = h := rfl
@[simp] theorem State.setHdr_kind (h : HdrReg) : (s.setHdr h).kind = s.kind := rfl
@[simp] theorem State.setHdr_name (h : HdrReg) : (s.setHdr h).name = s.name := rfl
@[simp] theorem State.setHdr_payload (h : HdrReg) : (s.setHdr h).payload = s.payload := rfl
@[simp] theorem State.setHdr_carg (h : HdrReg) : (s.setHdr h).carg = s.carg := rfl
@[simp] theorem State.setHdr_host (h : HdrReg) : (s.setHdr h).host = s.host := rfl

@[simp] theorem State.setName_config (n : Names) : (s.setName n).config = s.config := rfl
@[simp] theorem State.setName_cmd (n : Names) : (s.setName n).cmd = s.cmd := rfl
@[simp] theorem State.setName_status (n : Names) : (s.setName n).status = s.status := rfl
@[simp] theorem State.setName_inBuf (n : Names) : (s.setName n).inBuf = s.inBuf := rfl
@[simp] theorem State.setName_outBuf (n : Names) : (s.setName n).outBuf = s.outBuf := rfl
@[simp] theorem State.setName_outLen (n : Names) : (s.setName n).outLen = s.outLen := rfl
@[simp] theorem State.setName_hdr (n : Names) : (s.setName n).hdr = s.hdr := rfl
@[simp] theorem State.setName_kind (n : Names) : (s.setName n).kind = s.kind := rfl
@[simp] theorem State.setName_name (n : Names) : (s.setName n).name = n := rfl
@[simp] theorem State.setName_payload (n : Names) : (s.setName n).payload = s.payload := rfl
@[simp] theorem State.setName_carg (n : Names) : (s.setName n).carg = s.carg := rfl
@[simp] theorem State.setName_host (n : Names) : (s.setName n).host = s.host := rfl

@[simp] theorem State.setPayload_config (p : Option Bytes) : (s.setPayload p).config = s.config := rfl
@[simp] theorem State.setPayload_cmd (p : Option Bytes) : (s.setPayload p).cmd = s.cmd := rfl
@[simp] theorem State.setPayload_status (p : Option Bytes) : (s.setPayload p).status = s.status := rfl
@[simp] theorem State.setPayload_inBuf (p : Option Bytes) : (s.setPayload p).inBuf = s.inBuf := rfl
@[simp] theorem State.setPayload_outBuf (p : Option Bytes) : (s.setPayload p).outBuf = s.outBuf := rfl
@[simp] theorem State.setPayload_outLen (p : Option Bytes) : (s.setPayload p).outLen = s.outLen := rfl
@[simp] theorem State.setPayload_hdr (p : Option Bytes) : (s.setPayload p).hdr = s.hdr := rfl
@[simp] theorem State.setPayload_kind (p : Option Bytes) : (s.setPayload p).kind = s.kind := rfl
@[simp] theorem State.setPayload_name (p : Option Bytes) : (s.setPayload p).name = s.name := rfl
@[simp] theorem State.setPayload_payload (p : Option Bytes) : (s.setPayload p).payload = p := rfl
@[simp] theorem State.setPayload_carg (p : Option Bytes) : (s.setPayload p).carg = s.carg := rfl
@[simp] theorem State.setPayload_host (p : Option Bytes) : (s.setPayload p).host = s.host := rfl

@[simp] theorem State.setVariant_config (h : Header) (k : Kind) (n : Names) (p : Option Bytes) : (s.setVariant h k n p).config = s.config := rfl
@[simp] theorem State.setVariant_cmd (h : Header) (k : Kind) (n : Names) (p : Option Bytes) : (s.setVariant h k n p).cmd = s.cmd := rfl
@[simp] theorem State.setVariant_status (h : Header) (k : Kind) (n : Names) (p : Option Bytes) : (s.setVariant h k n p).status = s.status := rfl
@[simp] theorem State.setVariant_inBuf (h : Header) (k : Kind) (n : Names) (p : Option Bytes) : (s.setVariant h k n p).inBuf = s.inBuf := rfl
@[simp] theorem State.setVariant_outBuf (h : Header) (k : Kind) (n : Names) (p : Option Bytes) : (s.setVariant h k n p).outBuf = s.outBuf := rfl
@[simp] theorem State.setVariant_outLen (h : Header) (k : Kind) (n : Names) (p : Option Bytes) : (s.setVariant h k n p).outLen = s.outLen := rfl
@[simp] theorem State.setVariant_hdr (h : Header) (k : Kind) (n : Names) (p : Option Bytes) : (s.setVariant h k n p).hdr = HdrReg.ofHeader h := rfl
@[simp] theorem State.setVariant_kind (h : Header) (k : Kind) (n : Names) (p : Option Bytes) : (s.setVariant h k n p).kind = k := rfl
@[simp] theorem State.setVariant_name (h : Header) (k : Kind) (n : Names) (p : Option Bytes) : (s.setVariant h k n p).name = n := rfl
@[simp] theorem State.setVariant_payload (h : Header) (k : Kind) (n : Names) (p : Option Bytes) : (s.setVariant h k n p).payload = p := rfl
@[simp] theorem State.setVariant_carg (h : Header) (k : Kind) (n : Names) (p : Option Bytes) : (s.setVariant h k n p).carg = s.carg := rfl
@[simp] theorem State.setVariant_host (h : Header) (k : Kind) (n : Names) (p : Option Bytes) : (s.setVariant h k n p).host = s.host := rfl

@[simp] theorem State.setCarg_config (c : Carg) : (s.setCarg c).config = s.config := rfl
@[simp] theorem State.setCarg_cmd (c : Carg) : (s.setCarg c).cmd = s.cmd := rfl
@[simp] theorem State.setCarg_status (c : Carg) : (s.setCarg c).status = s.status := rfl
@[simp] theorem State.setCarg_inBuf (c : Carg) : (s.setCarg c).inBuf = s.inBuf := rfl
@[simp] theorem State.setCarg_outBuf (c : Carg) : (s.setCarg c).outBuf = s.outBuf := rfl
@[simp] theorem State.setCarg_outLen (c : Carg) : (s.setCarg c).outLen = s.outLen := rfl
@[simp] theorem State.setCarg_hdr (c : Carg) : (s.setCarg c).hdr = s.hdr := rfl
@[simp] theorem State.setCarg_kind (c : Carg) : (s.setCarg c).kind = s.kind := rfl
@[simp] theorem State.setCarg_name (c : Carg) : (s.setCarg c).name = s.name := rfl
@[simp] theorem State.setCarg_payload (c : Carg) : (s.setCarg c).payload = s.payload := rfl
@[simp] theorem State.setCarg_carg (c : Carg) : (s.setCarg c).carg = c := rfl
@[simp] theorem State.setCarg_host (c : Carg) : (s.setCarg c).host = s.host := rfl

@[simp] theorem State.setHost_config (p : List HostEntry) : (s.setHost p).config = s.config := rfl
@[simp] theorem State.setHost_cmd (p : List HostEntry) : (s.setHost p).cmd = s.cmd := rfl
@[simp] theorem State.setHost_status (p : List HostEntry) : (s.setHost p).status = s.status := rfl
@[simp] theorem State.setHost_inBuf (p : List HostEntry) : (s.setHost p).inBuf = s.inBuf := rfl
@[simp] theorem State.setHost_outBuf (p : List HostEntry) : (s.setHost p).outBuf = s.outBuf := rfl
@[simp] theorem State.setHost_outLen (p : List HostEntry) : (s.setHost p).outLen = s.outLen := rfl
@[simp] theorem State.setHost_hdr (p : List HostEntry) : (s.setHost p).hdr = s.hdr := rfl
@[simp] theorem State.setHost_kind (p : List HostEntry) : (s.setHost p).kind = s.kind := rfl
@[simp] theorem State.setHost_name (p : List HostEntry) : (s.setHost p).name = s.name := rfl
@[simp] theorem State.setHost_payload (p : List HostEntry) : (s.setHost p).payload = s.payload := rfl
@[simp] theorem State.setHost_carg (p : List HostEntry) : (s.setHost p).carg = s.carg := rfl
@[simp] theorem State.setHost_host (p : List HostEntry) : (s.setHost p).host = p := rfl

@[simp] theorem State.setStatus_setStatus (v x : BitVec 8) : (s.setStatus v).setStatus x = s.setStatus x := rfl
@[simp] theorem State.setCmd_setStatus (w : CommandWord) (v : BitVec 8) :
    (s.setStatus v).setCmd w = (s.setCmd w).setStatus v := rfl

/-- What an encode commits, written out (R91). Rewriting with it, a proof need not unfold a frame. -/
theorem State.setOutput_setStatus_eq (b : Bytes) (n : Nat) (v : BitVec 8) :
    (s.setOutput b n).setStatus v = { s with outBuf := b, outLen := n, status := v } := rfl

/-- What a constructor, a decode or PARSE commits, written out (R38). -/
theorem State.setVariant_setStatus_eq (h : Header) (k : Kind) (n : Names) (p : Option Bytes) (v : BitVec 8) :
    (s.setVariant h k n p).setStatus v =
      { s with hdr := HdrReg.ofHeader h, kind := k, name := n, payload := p, status := v } := rfl

end

@[simp] theorem State.resetWith_config (c : Config) : (State.resetWith c).config = c := rfl
@[simp] theorem State.resetWith_host (c : Config) : (State.resetWith c).host = [] := rfl

end Sys2Proof.Machine
end

