-- ==== Sys2Proof/Laws/Ops.lean ====
section
/-! SUPPORT. What each shared operation can do, said once: proofs about a meaning cite these and unfold the meaning only. -/

namespace Sys2Proof.Machine

/-! ### Staged operations -/

section
variable {α β : Type}

@[simp] theorem readReg_some (r : Register) (a : α) : readReg r (some a) = .ok a := rfl

@[simp] theorem readReg_none (r : Register) : readReg r (none : Option α) = .error (.unwritten r) := rfl

theorem readReg_eq_ok {r : Register} {v : Option α} {a : α} : readReg r v = .ok a ↔ v = some a := by
  cases v <;> simp

theorem readReg_eq_error {r : Register} {v : Option α} {e : Stop} :
    readReg r v = .error e ↔ v = none ∧ e = .unwritten r := by
  cases v <;> simp [eq_comm]

@[simp] theorem staged_bind_ok (a : α) (f : α → Except Stop β) : (Except.ok a >>= f) = f a := rfl

@[simp] theorem staged_bind_error (e : Stop) (f : α → Except Stop β) :
    (Except.error e >>= f) = .error e := rfl

@[simp] theorem staged_pure (a : α) : (pure a : Except Stop α) = .ok a := rfl

/-- A staged operation that goes on after `x` reaches its end exactly when both parts do. -/
theorem staged_bind_eq_ok {x : Except Stop α} {f : α → Except Stop β} {b : β} :
    (x >>= f) = .ok b ↔ ∃ a, x = .ok a ∧ f a = .ok b := by
  cases x <;> simp

/-- A staged operation that goes on after `x` stops where `x` does, or after it. -/
theorem staged_bind_eq_error {x : Except Stop α} {f : α → Except Stop β} {e : Stop} :
    (x >>= f) = .error e ↔ x = .error e ∨ ∃ a, x = .ok a ∧ f a = .error e := by
  cases x <;> simp

end

@[simp] theorem conclude_ok (s t : State) : conclude s (.ok t) = .next (t.setStatus statusOk) := rfl

@[simp] theorem conclude_raise (s : State) (e : ErrorCode) :
    conclude s (.error (.raise e)) = .next (s.setStatus e.code) := rfl

@[simp] theorem conclude_raiseWrapped (s : State) (e : ErrorCode) :
    conclude s (.error (.raiseWrapped e)) = .next (s.setStatus (statusWrapped e)) := rfl

@[simp] theorem conclude_unwritten (s : State) (r : Register) :
    conclude s (.error (.unwritten r)) = .fault (.unwritten r) := rfl

/-- Everything the end of an operation can do when it answers a next state: commit with STATUS = OK, or change STATUS alone
(R12, R136). -/
theorem conclude_eq_next {s t : State} {op : Staged} (h : conclude s op = .next t) :
    (∃ u, op = .ok u ∧ t = u.setStatus statusOk) ∨ (∃ e : ErrorCode, op = .error (.raise e) ∧ t = s.setStatus e.code) ∨
      ∃ e : ErrorCode, op = .error (.raiseWrapped e) ∧ t = s.setStatus (statusWrapped e) := by
  rcases op with (e | e | r) | u
  · exact .inr (.inl ⟨e, rfl, (Host.Outcome.next.inj h).symm⟩)
  · exact .inr (.inr ⟨e, rfl, (Host.Outcome.next.inj h).symm⟩)
  · cases h
  · exact .inl ⟨u, rfl, (Host.Outcome.next.inj h).symm⟩

/-- An operation faults exactly when it reads ⊥ (R141). -/
theorem conclude_eq_fault {s : State} {op : Staged} {f : Fault} :
    conclude s op = .fault f ↔ ∃ r, op = .error (.unwritten r) ∧ f = .unwritten r := by
  rcases op with (e | e | r) | u <;> simp [eq_comm]

/-- No operation is refused. -/
theorem conclude_ne_refused {s : State} {op : Staged} {r : Refusal} : conclude s op ≠ .refused r := by
  rcases op with (e | e | r) | u <;> simp

@[simp] theorem wrapFailure_ok (t : State) : wrapFailure (.ok t) = .ok t := rfl

@[simp] theorem wrapFailure_raise (e : ErrorCode) :
    wrapFailure (.error (.raise e)) = .error (.raiseWrapped e) := rfl

theorem requireKind_eq (k : Kind) (s : State) :
    requireKind k s = if s.kind = k then .ok () else .error (.raise .illegalCommand) := rfl

theorem requireKind_pass {k : Kind} {s : State} (h : s.kind = k) : requireKind k s = .ok () := if_pos h

theorem requireKind_stop {k : Kind} {s : State} (h : s.kind ≠ k) :
    requireKind k s = .error (.raise .illegalCommand) := if_neg h

theorem requireInput_pass {n : Nat} {s : State} (h : n ≤ s.inBuf.length) : requireInput n s = .ok () :=
  if_neg (Nat.not_lt.mpr h)

theorem requireInput_stop {n : Nat} {s : State} (h : s.inBuf.length < n) :
    requireInput n s = .error (.raise .tooShortToParse) := if_pos h

@[simp] theorem emit_allocate (f : Bytes) (s : State) : emit true f s = .ok (s.setOutput f f.length) := rfl

theorem emit_inPlace_short {f : Bytes} {s : State} (h : s.outBuf.length < f.length) :
    emit false f s = .error (.raise .tooShortToMarshal) := by simp [emit, h]

theorem emit_inPlace_fits {f : Bytes} {s : State} (h : f.length ≤ s.outBuf.length) :
    emit false f s = .ok (s.setOutput (f ++ s.outBuf.drop f.length) f.length) := by
  simp [emit, Nat.not_lt.mpr h]

/-- The output step for a frame of a known length: with the length named, a proof need not compute it. -/
theorem emit_allocate_len {f : Bytes} {s : State} {n : Nat} (hf : f.length = n) :
    emit true f s = .ok (s.setOutput f n) := by subst hf; rfl

theorem emit_inPlace_fits_len {f : Bytes} {s : State} {n : Nat} (hf : f.length = n) (h : n ≤ s.outBuf.length) :
    emit false f s = .ok (s.setOutput (f ++ s.outBuf.drop n) n) := by subst hf; exact emit_inPlace_fits h

theorem emit_inPlace_short_len {f : Bytes} {s : State} {n : Nat} (hf : f.length = n) (h : s.outBuf.length < n) :
    emit false f s = .error (.raise .tooShortToMarshal) := by subst hf; exact emit_inPlace_short h

/-- Everything the output step can do when it succeeds (R91): the frame stands at the start of OUT_BUF, OUT_LEN is its
length, and with A = 0 the capacity is what it was. -/
theorem emit_eq_ok {a : Bool} {f : Bytes} {s t : State} (h : emit a f s = .ok t) :
    (a = true ∧ t = s.setOutput f f.length) ∨
      (a = false ∧ f.length ≤ s.outBuf.length ∧ t = s.setOutput (f ++ s.outBuf.drop f.length) f.length) := by
  cases a with
  | true => exact .inl ⟨rfl, (Except.ok.inj h).symm⟩
  | false =>
    by_cases hl : s.outBuf.length < f.length
    · rw [emit_inPlace_short hl] at h; cases h
    · rw [emit_inPlace_fits (Nat.not_lt.mp hl)] at h
      exact .inr ⟨rfl, Nat.not_lt.mp hl, (Except.ok.inj h).symm⟩

/-- The output step stops only on a short in-place target (R137). -/
theorem emit_eq_error {a : Bool} {f : Bytes} {s : State} {e : Stop} (h : emit a f s = .error e) :
    a = false ∧ s.outBuf.length < f.length ∧ e = .raise .tooShortToMarshal := by
  cases a with
  | true => cases h
  | false =>
    by_cases hl : s.outBuf.length < f.length
    · rw [emit_inPlace_short hl] at h; exact ⟨rfl, hl, (Except.error.inj h).symm⟩
    · rw [emit_inPlace_fits (Nat.not_lt.mp hl)] at h; cases h

/-! ### Read sets -/

/-- HDR reads as h exactly when every field holds h's value (R89). -/
theorem hdrRead_eq_ok {r : HdrReg} {h : Header} : r.read = .ok h ↔ r = HdrReg.ofHeader h := by
  constructor
  · intro e
    simp only [HdrReg.read, staged_bind_eq_ok, readReg_eq_ok, staged_pure, Except.ok.injEq] at e
    obtain ⟨a0, h0, a1, h1, a2, h2, a3, h3, a4, h4, a5, h5, a6, h6, a7, h7, a8, h8, a9, h9, a10, h10, a11, h11, a12, h12,
      a13, h13, a14, h14, a15, h15, a16, h16, a17, h17, a18, h18, a19, h19, a20, h20, a21, h21, a22, h22, a23, h23,
      a24, h24, a25, h25, a26, h26, rfl⟩ := e
    cases r
    simp only at h0 h1 h2 h3 h4 h5 h6 h7 h8 h9 h10 h11 h12 h13 h14 h15 h16 h17 h18 h19 h20 h21 h22 h23 h24 h25 h26
    subst h0 h1 h2 h3 h4 h5 h6 h7 h8 h9 h10 h11 h12 h13 h14 h15 h16 h17 h18 h19 h20 h21 h22 h23 h24 h25 h26
    rfl
  · rintro rfl; rfl

@[simp] theorem hdrRead_ofHeader (h : Header) : (HdrReg.ofHeader h).read = .ok h := rfl

/-- CARG's scalars read as g exactly when every one of the 26 fields holds g's value (R102). -/
theorem cargRead_eq_ok {c : Carg} {g : CargScalars} :
    c.readScalars = .ok g ↔ c = Carg.ofScalars g c.nameIn c.payloadIn := by
  constructor
  · intro e
    simp only [Carg.readScalars, staged_bind_eq_ok, readReg_eq_ok, staged_pure, Except.ok.injEq] at e
    obtain ⟨a0, h0, a1, h1, a2, h2, a3, h3, a4, h4, a5, h5, a6, h6, a7, h7, a8, h8, a9, h9, a10, h10, a11, h11, a12, h12,
      a13, h13, a14, h14, a15, h15, a16, h16, a17, h17, a18, h18, a19, h19, a20, h20, a21, h21, a22, h22, a23, h23,
      a24, h24, a25, h25, rfl⟩ := e
    cases c
    simp only at h0 h1 h2 h3 h4 h5 h6 h7 h8 h9 h10 h11 h12 h13 h14 h15 h16 h17 h18 h19 h20 h21 h22 h23 h24 h25
    subst h0 h1 h2 h3 h4 h5 h6 h7 h8 h9 h10 h11 h12 h13 h14 h15 h16 h17 h18 h19 h20 h21 h22 h23 h24 h25
    rfl
  · intro e; rw [e]; rfl

@[simp] theorem cargRead_ofScalars (g : CargScalars) (n : Names) (p : Option Bytes) :
    (Carg.ofScalars g n p).readScalars = .ok g := rfl

/-- Three name registers read as their strings exactly when each holds one. -/
theorem namesRead_eq_ok {reg : NameIndex → Register} {n : Names} {x : Bytes × Bytes × Bytes} :
    n.read reg = .ok x ↔ n = Names.ofStrings x.1 x.2.1 x.2.2 := by
  constructor
  · intro e
    simp only [Names.read, staged_bind_eq_ok, readReg_eq_ok, staged_pure, Except.ok.injEq] at e
    obtain ⟨a, ha, b, hb, c, hc, rfl⟩ := e
    cases n
    simp only at ha hb hc
    subst ha hb hc
    rfl
  · intro e; rw [e]; rfl

@[simp] theorem namesRead_ofStrings (reg : NameIndex → Register) (a b c : Bytes) :
    (Names.ofStrings a b c).read reg = .ok (a, b, c) := rfl

/-! ### The host's writes -/

/-- A host write that answers a next state was possible, and the next state is the write applied. -/
theorem hostWrite_eq_next {a : HostWrite} {s t : State} (h : hostWrite a s = .next t) :
    a.overfills s.config = none ∧ t = a.apply s := by
  unfold hostWrite at h
  split at h
  · cases h
  · exact ⟨‹_›, (Host.Outcome.next.inj h).symm⟩

/-- A host check answers the state it was given, always (R79). -/
@[simp] theorem hostCheck_eq (r : Register) (v : RegValue) (s : State) : hostCheck r v s = .next s := rfl

/-- The reset event answers a next state, always (R154). -/
@[simp] theorem hostReset_eq (s : State) : hostReset s = .next ((State.resetWith s.config).setHost s.host) := rfl

theorem hostLoopback_eq_next {s t : State} (h : hostLoopback s = .next t) :
    s.outLen ≤ s.outBuf.length ∧ (HostWrite.inBuf (s.outBuf.take s.outLen)).overfills s.config = none ∧
      t = s.setInBuf (s.outBuf.take s.outLen) := by
  unfold hostLoopback at h
  split at h
  · cases h
  · exact ⟨by omega, hostWrite_eq_next h⟩

/-- Everything the issue of a command can do: run the operation the word decodes to, or end with ILLEGAL_COMMAND (R75). -/
theorem issueCommand_cases (w : CommandWord) (s : State) :
    (∃ i, decode w = .ok i ∧ issueCommand w s = exec i (s.setCmd w)) ∨
      ∃ e, decode w = .error e ∧ issueCommand w s = .next ((s.setCmd w).setStatus ErrorCode.illegalCommand.code) := by
  unfold issueCommand
  cases decode w with
  | ok i => exact .inl ⟨i, rfl, rfl⟩
  | error e => exact .inr ⟨e, rfl, rfl⟩

end Sys2Proof.Machine
end

