-- ==== Sys2Proof/Laws/Memory.lean ====
section
/-! SUPPORT. The buffers: the laws of the primitives of R11, and the canonical form of the memory. -/

namespace Sys2Proof.Machine

/-! ### The canonical form -/

/-- The addresses of a buffer's cells rise strictly, for every byte string. -/
theorem bufferCells_rising (B : Bytes) : (bufferCells B).Pairwise fun x y => x.1 < y.1 := by
  have h : (bufferCells B).map Prod.fst = List.range B.length := by
    apply List.ext_getElem <;> simp [bufferCells]
  have hp : ((bufferCells B).map Prod.fst).Pairwise (· < ·) := by
    rw [h]; exact List.pairwise_lt_range
  exact List.pairwise_map.mp hp

/-- Equal cells are equal buffers: the form is canonical. -/
theorem bufferCells_injective {A B : Bytes} (h : bufferCells A = bufferCells B) : A = B := by
  have key : ∀ X : Bytes, (bufferCells X).map Prod.snd = X := fun X => by
    apply List.ext_getElem <;> simp [bufferCells]
  rw [← key A, ← key B, h]

/-- A cell is listed exactly when the buffer reads as its byte there; an unlisted address reads as no value. -/
theorem mem_bufferCells {B : Bytes} {a : Nat} {b : Byte} : (a, b) ∈ bufferCells B ↔ readByte B a = some b := by
  simp [bufferCells, readByte, List.mem_iff_getElem?, List.getElem?_zipIdx, Option.map_eq_some_iff]

/-- The output step keeps the memory's form, for a frame that fits MAX_BUF_LEN. -/
theorem emit_keeps_memoryWf {a : Bool} {f : Bytes} {s t : State} (hs : memoryWf s = true)
    (hf : f.length ≤ s.config.maxBufLen) (h : emit a f s = .ok t) : memoryWf t = true := by
  simp only [memoryWf, Bool.and_eq_true, decide_eq_true_eq] at hs ⊢
  rcases emit_eq_ok h with ⟨-, rfl⟩ | ⟨-, hl, rfl⟩
  · exact ⟨hs.1, hf⟩
  · simp only [State.setOutput_inBuf, State.setOutput_config, State.setOutput_outBuf, List.length_append,
      List.length_drop]
    exact ⟨hs.1, by omega⟩

/-- A host write keeps the memory's form. -/
theorem hostWrite_keeps_memoryWf {a : HostWrite} {s t : State} (hs : memoryWf s = true) (h : hostWrite a s = .next t) :
    memoryWf t = true := by
  obtain ⟨ho, rfl⟩ := hostWrite_eq_next h
  simp only [memoryWf, Bool.and_eq_true, decide_eq_true_eq] at hs ⊢
  cases a with
  | inBuf b =>
    simp only [HostWrite.overfills, ite_eq_right_iff, reduceCtorEq, imp_false, not_lt] at ho
    exact ⟨ho, hs.2⟩
  | outBuf b =>
    simp only [HostWrite.overfills, ite_eq_right_iff, reduceCtorEq, imp_false, not_lt] at ho
    exact ⟨hs.1, ho⟩
  | _ => exact hs

theorem hostLoopback_keeps_memoryWf {s t : State} (hs : memoryWf s = true) (h : hostLoopback s = .next t) :
    memoryWf t = true := by
  unfold hostLoopback at h
  split at h
  · cases h
  · exact hostWrite_keeps_memoryWf hs h

theorem reset_memoryWf (c : Config) : memoryWf (State.resetWith c) = true := by simp [memoryWf, State.resetWith]

/-! ### The primitives of R11 -/

@[simp] theorem beBytes_length (n v : Nat) : (beBytes n v).length = n := by simp [beBytes]

theorem memWriteBytes_length {B s : Bytes} {off : Nat} (h : off + s.length ≤ B.length) :
    (memWriteBytes B off s).length = B.length := by
  simp only [memWriteBytes, List.length_append, List.length_take, List.length_drop]; omega

/-- A write leaves every byte outside it alone. -/
theorem readByte_memWriteBytes_outside {B s : Bytes} {off k : Nat} (h : off + s.length ≤ B.length)
    (hk : k < off ∨ off + s.length ≤ k) : readByte (memWriteBytes B off s) k = readByte B k := by
  simp only [readByte, memWriteBytes, List.getElem?_append, List.length_append, List.length_take, List.getElem?_take,
    List.getElem?_drop]
  rcases hk with hk | hk
  · rw [if_pos (by omega), if_pos (by omega), if_pos hk]
  · rw [if_neg (by omega)]; congr 1; omega

/-- A read after a write gives the bytes written. -/
theorem memReadBytes_memWriteBytes {B s : Bytes} {off : Nat} (h : off + s.length ≤ B.length) :
    memReadBytes (memWriteBytes B off s) off s.length = s := by
  have hl : (B.take off).length = off := by simp only [List.length_take]; omega
  unfold memReadBytes memWriteBytes
  rw [List.append_assoc, List.drop_append_of_le_length (by omega), List.drop_of_length_le (by omega), List.nil_append,
    List.take_append_of_le_length (le_refl _), List.take_of_length_le (le_refl _)]

/-- One more byte is one more digit in base 256 (R11, R43). -/
theorem beNat_append_byte (s : Bytes) (b : Byte) : beNat (s ++ [b]) = beNat s * 256 + b.toNat := by
  simp [beNat]

/-- The bytes of a value are the bytes of its quotient by 256, then its last byte. -/
theorem beBytes_succ (n v : Nat) : beBytes (n + 1) v = beBytes n (v / 256) ++ [BitVec.ofNat 8 v] := by
  unfold beBytes
  rw [List.range_succ, List.map_append]
  congr 1
  · apply List.map_congr_left
    intro k hk
    have hk' : k < n := List.mem_range.mp hk
    have h8 : 8 * (n + 1 - 1 - k) = 8 + 8 * (n - 1 - k) := by omega
    rw [h8, Nat.shiftRight_add]
    congr 2
    exact Nat.shiftRight_eq_div_pow v 8
  · simp

/-- The bytes of a value read back as the value. -/
theorem beNat_beBytes (n : Nat) : ∀ v, v < 256 ^ n → beNat (beBytes n v) = v := by
  induction n with
  | zero => intro v hv; simp only [pow_zero, Nat.lt_one_iff] at hv; subst hv; rfl
  | succ n ih =>
    intro v hv
    rw [beBytes_succ, beNat_append_byte, ih _ (by rw [Nat.div_lt_iff_lt_mul (by norm_num), ← pow_succ]; exact hv)]
    simp only [BitVec.toNat_ofNat]
    omega

/-- A byte string read as a big-endian integer is below 256 to its length. -/
theorem beNat_lt (s : Bytes) : beNat s < 256 ^ s.length := by
  induction s using List.reverseRecOn with
  | nil => simp [beNat]
  | append_singleton s b ih =>
    rw [beNat_append_byte, List.length_append, List.length_singleton, pow_succ]
    have := b.isLt
    omega

/-- The bytes of the integer a byte string reads as are the byte string. -/
theorem beBytes_beNat (s : Bytes) : beBytes s.length (beNat s) = s := by
  induction s using List.reverseRecOn with
  | nil => rfl
  | append_singleton s b ih =>
    have hb := b.isLt
    rw [beNat_append_byte, List.length_append, List.length_singleton, beBytes_succ]
    have hd : (beNat s * 256 + b.toNat) / 256 = beNat s := by omega
    have hm : BitVec.ofNat 8 (beNat s * 256 + b.toNat) = b := by
      apply BitVec.eq_of_toNat_eq; simp only [BitVec.toNat_ofNat]; omega
    rw [hd, hm, ih]

/-- A read of an integer field after its write gives the value written. -/
theorem memRead_memWrite {B : Bytes} {off n v : Nat} (h : off + n ≤ B.length) (hv : v < 256 ^ n) :
    memRead (memWrite B off n v) off n = v := by
  have hb : off + (beBytes n v).length ≤ B.length := by simpa using h
  have := memReadBytes_memWriteBytes hb
  rw [beBytes_length] at this
  rw [memRead, memWrite, this, beNat_beBytes n v hv]

/-! ### Names and frames -/

@[simp] theorem fit10_length (s : Bytes) : (fit10 s).length = 10 := by
  unfold fit10
  split
  · simpa using ‹_›
  · simp only [Config.nameLen, List.length_append, List.length_replicate] at *; omega

theorem fit10_of_length {s : Bytes} (h : s.length = 10) : fit10 s = s := by
  simp [fit10, h, List.take_of_length_le]

@[simp] theorem tagBytes_length (t : Tag) : (Tag.bytes t).length = 4 := rfl

/-- A write at the end of what is already written of a zeroed buffer. -/
theorem memWriteBytes_extend {p s : Bytes} {off n m : Nat} (hoff : p.length = off) (hm : n = s.length + m) :
    memWriteBytes (p ++ List.replicate n 0x00#8) off s = (p ++ s) ++ List.replicate m 0x00#8 := by
  subst hoff hm
  simp [memWriteBytes, List.drop_append]

/-- The wire header as its 28 entries one after another (R59, R60). -/
theorem hdrBytes_eq_append (h : Header) : hdrBytes h =
    Tag.bytes h.ftt ++ beBytes 4 h.tfl.toNat ++ beBytes 4 h.sa.toNat ++ beBytes 4 h.da.toNat ++ beBytes
      4 h.vseq.toNat ++ beBytes 4 h.seq.toNat ++ beBytes 4 h.mctl.toNat ++ beBytes 2 h.uls.toNat ++
      beBytes 2 h.msz.toNat ++ beBytes 4 h.madd.toNat ++ beBytes 1 h.mft.toNat ++ beBytes 1 h.mrlt.toNat
      ++ beBytes 2 0x0000 ++ beBytes 2 h.tcd.toNat ++ beBytes 2 h.ver.toNat ++ beBytes 2 h.cad1.toNat ++
      beBytes 2 h.csz1.toNat ++ beBytes 2 h.cad2.toNat ++ beBytes 2 h.csz2.toNat ++ beBytes 2 h.mode.toNat
      ++ beBytes 1 h.ptype.toNat ++ beBytes 1 h.pri.toNat ++ beBytes 1 h.cbn.toNat ++ beBytes 1
      h.tbn.toNat ++ beBytes 2 h.bsize.toNat ++ beBytes 1 h.lks.toNat ++ beBytes 1 h.tw.toNat ++ beBytes 2
      h.rct.toNat := by
  have e : memWriteBytes (List.replicate 64 0x00#8) 0 (Tag.bytes h.ftt) = Tag.bytes h.ftt ++ List.replicate 60 0x00#8 :=
    memWriteBytes_extend (p := []) (n := 64) (m := 60) rfl rfl
  simp only [hdrBytes, memWrite, Config.hdrLen]
  rw [e]
  rw [memWriteBytes_extend (n := 60) (m := 56) (by simp) (by simp)]
  rw [memWriteBytes_extend (n := 56) (m := 52) (by simp) (by simp)]
  rw [memWriteBytes_extend (n := 52) (m := 48) (by simp) (by simp)]
  rw [memWriteBytes_extend (n := 48) (m := 44) (by simp) (by simp)]
  rw [memWriteBytes_extend (n := 44) (m := 40) (by simp) (by simp)]
  rw [memWriteBytes_extend (n := 40) (m := 36) (by simp) (by simp)]
  rw [memWriteBytes_extend (n := 36) (m := 34) (by simp) (by simp)]
  rw [memWriteBytes_extend (n := 34) (m := 32) (by simp) (by simp)]
  rw [memWriteBytes_extend (n := 32) (m := 28) (by simp) (by simp)]
  rw [memWriteBytes_extend (n := 28) (m := 27) (by simp) (by simp)]
  rw [memWriteBytes_extend (n := 27) (m := 26) (by simp) (by simp)]
  rw [memWriteBytes_extend (n := 26) (m := 24) (by simp) (by simp)]
  rw [memWriteBytes_extend (n := 24) (m := 22) (by simp) (by simp)]
  rw [memWriteBytes_extend (n := 22) (m := 20) (by simp) (by simp)]
  rw [memWriteBytes_extend (n := 20) (m := 18) (by simp) (by simp)]
  rw [memWriteBytes_extend (n := 18) (m := 16) (by simp) (by simp)]
  rw [memWriteBytes_extend (n := 16) (m := 14) (by simp) (by simp)]
  rw [memWriteBytes_extend (n := 14) (m := 12) (by simp) (by simp)]
  rw [memWriteBytes_extend (n := 12) (m := 10) (by simp) (by simp)]
  rw [memWriteBytes_extend (n := 10) (m := 9) (by simp) (by simp)]
  rw [memWriteBytes_extend (n := 9) (m := 8) (by simp) (by simp)]
  rw [memWriteBytes_extend (n := 8) (m := 7) (by simp) (by simp)]
  rw [memWriteBytes_extend (n := 7) (m := 6) (by simp) (by simp)]
  rw [memWriteBytes_extend (n := 6) (m := 4) (by simp) (by simp)]
  rw [memWriteBytes_extend (n := 4) (m := 3) (by simp) (by simp)]
  rw [memWriteBytes_extend (n := 3) (m := 2) (by simp) (by simp)]
  rw [memWriteBytes_extend (n := 2) (m := 0) (by simp) (by simp)]
  simp only [List.replicate_zero, List.append_nil]

@[simp] theorem hdrBytes_length (h : Header) : (hdrBytes h).length = 64 := by
  simp [hdrBytes_eq_append]

@[simp] theorem partBytes_length (h : Header) (n : Bytes × Bytes × Bytes) : (partBytes h n).length = 96 := by
  simp [partBytes, Config.partRsvLen]

end Sys2Proof.Machine
end

