-- ==== Sys2Proof/Laws/PerInstr.lean ====
section
/-! SUPPORT. The per-instruction family LegalWord: the command word of every operation is legal by the text of R75. -/

namespace Sys2Proof.Laws

/-- The word of an operation meets none of the three conditions of R75. -/
def LegalWord.Statement (i : Instr) : Prop := commandLegal (encode i) = true

theorem LegalWord.packCtl : LegalWord.Statement .packCtl := rfl

theorem LegalWord.packMode : LegalWord.Statement .packMode := rfl

theorem LegalWord.makeAddr : LegalWord.Statement .makeAddr := rfl

theorem LegalWord.unpackCtl : LegalWord.Statement .unpackCtl := rfl

theorem LegalWord.unpackMode : LegalWord.Statement .unpackMode := rfl

theorem LegalWord.hdrEnc (a : Bool) : LegalWord.Statement (.hdrEnc a) := by cases a <;> exact rfl

theorem LegalWord.hdrDec : LegalWord.Statement .hdrDec := rfl

theorem LegalWord.fit10 : LegalWord.Statement .fit10 := rfl

theorem LegalWord.mkToken : LegalWord.Statement .mkToken := rfl

theorem LegalWord.mkTrig : LegalWord.Statement .mkTrig := rfl

theorem LegalWord.mkPreq : LegalWord.Statement .mkPreq := rfl

theorem LegalWord.mkCyc : LegalWord.Statement .mkCyc := rfl

theorem LegalWord.tokenEnc (a : Bool) : LegalWord.Statement (.tokenEnc a) := by cases a <;> exact rfl

theorem LegalWord.tokenDec : LegalWord.Statement .tokenDec := rfl

theorem LegalWord.trigEnc (a : Bool) : LegalWord.Statement (.trigEnc a) := by cases a <;> exact rfl

theorem LegalWord.trigDec : LegalWord.Statement .trigDec := rfl

theorem LegalWord.preqEnc (a : Bool) : LegalWord.Statement (.preqEnc a) := by cases a <;> exact rfl

theorem LegalWord.preqDec : LegalWord.Statement .preqDec := rfl

theorem LegalWord.cycEnc (a : Bool) : LegalWord.Statement (.cycEnc a) := by cases a <;> exact rfl

theorem LegalWord.cycDec : LegalWord.Statement .cycDec := rfl

theorem LegalWord.parse : LegalWord.Statement .parse := rfl

end Sys2Proof.Laws
end

