-- ==== Sys2Proof/Laws/ReadSets.lean ====
section
/-! SUPPORT. The read sets of R82: a read of HDR, of CARG's scalars or of three names stops exactly when a field of it holds
⊥, and names such a field. -/

namespace Sys2Proof.Machine

/-- Every operation ends in the one way operations end: what `conclude` can do is all that exec can do. -/
theorem exec_eq_conclude (i : Instr) (s : State) : ∃ op, exec i s = conclude s op := by
  cases i <;> exact ⟨_, rfl⟩

/-- A read followed by more stops on ⊥ there, or goes on with the value and stops later. -/
theorem readReg_bind_eq_error {α β : Type} {r : Register} {v : Option α} {f : α → Except Stop β} {e : Stop}
    (h : (readReg r v >>= f) = .error e) : (v = none ∧ e = .unwritten r) ∨ ∃ a, v = some a ∧ f a = .error e := by
  rcases staged_bind_eq_error.mp h with h | ⟨a, ha, h⟩
  · exact .inl (readReg_eq_error.mp h)
  · exact .inr ⟨a, readReg_eq_ok.mp ha, h⟩

/-- A read of HDR that stops names a field of HDR that holds ⊥. -/
theorem hdrRead_eq_error {s : State} {e : Stop} (h : s.hdr.read = .error e) :
    ∃ q ∈ hdrFields, s.readRegister q = none ∧ e = .unwritten q := by
  unfold HdrReg.read at h
  repeat
    rcases readReg_bind_eq_error h with ⟨hv, rfl⟩ | ⟨_, -, h'⟩
    · exact ⟨_, by simp [hdrFields], by simp [State.readRegister, HdrReg.get32, HdrReg.get16, HdrReg.get8, numberOf, hv],
        rfl⟩
    clear h
    rename' h' => h
  cases h

/-- A read of CARG's scalars that stops names a scalar field of CARG that holds ⊥. -/
theorem cargRead_eq_error {s : State} {e : Stop} (h : s.carg.readScalars = .error e) :
    ∃ q ∈ cargScalarFields, s.readRegister q = none ∧ e = .unwritten q := by
  unfold Carg.readScalars at h
  repeat
    rcases readReg_bind_eq_error h with ⟨hv, rfl⟩ | ⟨_, -, h'⟩
    · exact ⟨_, by simp [cargScalarFields],
        by simp [State.readRegister, Carg.get32, Carg.get16, Carg.get8, Carg.get1, numberOf, hv], rfl⟩
    clear h
    rename' h' => h
  cases h

/-- A read of NAME_IN that stops names one of its registers that holds ⊥. -/
theorem nameInRead_eq_error {s : State} {e : Stop} (h : s.carg.nameIn.read .nameIn = .error e) :
    ∃ q ∈ nameInFields, s.readRegister q = none ∧ e = .unwritten q := by
  unfold Names.read at h
  repeat
    rcases readReg_bind_eq_error h with ⟨hv, rfl⟩ | ⟨_, -, h'⟩
    · exact ⟨_, by simp [nameInFields], by simp [State.readRegister, Names.get, hv], rfl⟩
    clear h
    rename' h' => h
  cases h

/-- A read of NAME that stops names one of its registers that holds ⊥. -/
theorem nameRead_eq_error {s : State} {e : Stop} (h : s.name.read .name = .error e) :
    ∃ q ∈ nameFields, s.readRegister q = none ∧ e = .unwritten q := by
  unfold Names.read at h
  repeat
    rcases readReg_bind_eq_error h with ⟨hv, rfl⟩ | ⟨_, -, h'⟩
    · exact ⟨_, by simp [nameFields], by simp [State.readRegister, Names.get, hv], rfl⟩
    clear h
    rename' h' => h
  cases h

/-- HDR holding a record holds ⊥ in no field. -/
theorem readRegister_hdr_ofHeader {s : State} {h : Header} (e : s.hdr = HdrReg.ofHeader h) (f : HdrField) :
    s.readRegister (.hdr f) ≠ none := by
  rcases f with _ | f | f | f <;> try cases f
  all_goals simp [State.readRegister, HdrReg.get32, HdrReg.get16, HdrReg.get8, numberOf, e, HdrReg.ofHeader]

/-- CARG holding 26 scalars holds ⊥ in no scalar field. -/
theorem readRegister_carg_ofScalars {s : State} {g : CargScalars} {n : Names} {p : Option Bytes}
    (e : s.carg = Carg.ofScalars g n p) (f : CargField) : s.readRegister (.carg f) ≠ none := by
  rcases f with f | f | f | _ | f <;> try cases f
  all_goals
    simp [State.readRegister, Carg.get32, Carg.get16, Carg.get8, Carg.get1, numberOf, e, Carg.ofScalars]

/-- If a field of HDR holds ⊥, a read of HDR stops with UNWRITTEN. -/
theorem hdrRead_stops {s : State} {f : HdrField} (hf : s.readRegister (.hdr f) = none) :
    ∃ q, s.hdr.read = .error (.unwritten q) := by
  cases h : s.hdr.read with
  | ok x => exact absurd hf (readRegister_hdr_ofHeader (hdrRead_eq_ok.mp h) f)
  | error e => obtain ⟨q, -, -, rfl⟩ := hdrRead_eq_error h; exact ⟨q, rfl⟩

/-- If a scalar field of CARG holds ⊥, a read of the 26 scalars stops with UNWRITTEN. -/
theorem cargRead_stops {s : State} {f : CargField} (hf : s.readRegister (.carg f) = none) :
    ∃ q, s.carg.readScalars = .error (.unwritten q) := by
  cases h : s.carg.readScalars with
  | ok x => exact absurd hf (readRegister_carg_ofScalars (cargRead_eq_ok.mp h) f)
  | error e => obtain ⟨q, -, -, rfl⟩ := cargRead_eq_error h; exact ⟨q, rfl⟩

/-- If NAME_IN[i] holds ⊥, a read of the three stops with UNWRITTEN. -/
theorem nameInRead_stops {s : State} {i : NameIndex} (hi : s.readRegister (.nameIn i) = none) :
    ∃ q, s.carg.nameIn.read .nameIn = .error (.unwritten q) := by
  cases h : s.carg.nameIn.read .nameIn with
  | ok x =>
    have e := namesRead_eq_ok.mp h
    cases i <;> simp [State.readRegister, Names.get, e, Names.ofStrings] at hi
  | error e => obtain ⟨q, -, -, rfl⟩ := nameInRead_eq_error h; exact ⟨q, rfl⟩

/-- If NAME[i] holds ⊥, a read of the three stops with UNWRITTEN. -/
theorem nameRead_stops {s : State} {i : NameIndex} (hi : s.readRegister (.name i) = none) :
    ∃ q, s.name.read .name = .error (.unwritten q) := by
  cases h : s.name.read .name with
  | ok x =>
    have e := namesRead_eq_ok.mp h
    cases i <;> simp [State.readRegister, Names.get, e, Names.ofStrings] at hi
  | error e => obtain ⟨q, -, -, rfl⟩ := nameRead_eq_error h; exact ⟨q, rfl⟩

end Sys2Proof.Machine
end

