-- ==== Sys2Proof/Laws/System.lean ====
section
/-! SUPPORT. What a step of one instance of a system can do, and what it keeps. -/

namespace Sys2Proof.Machine

@[simp] theorem Run.advance_faulted (f : Fault) : (Run.faulted f).advance = .faulted f := rfl
@[simp] theorem Run.advance_refused (r : Refusal) : (Run.refused r).advance = .refused r := rfl

theorem Run.advance_running {s t : State} (h : step s = .next t) : (Run.running s).advance = .running t := by
  simp only [Run.advance, h]

/-- A run that has ended in a fault stays so, whatever steps follow (R141). -/
@[simp] theorem Run.iterate_advance_faulted (f : Fault) (k : Nat) : Run.advance^[k] (.faulted f) = .faulted f :=
  Function.iterate_fixed rfl k

@[simp] theorem Placed.advance_inStorage (p : Placed) : p.advance.inStorage = p.inStorage := rfl
@[simp] theorem Placed.advance_outStorage (p : Placed) : p.advance.outStorage = p.outStorage := rfl
@[simp] theorem Placed.advance_run (p : Placed) : p.advance.run = p.run.advance := rfl

/-- Everything a step of a system can answer. -/
theorem systemStep_cases (n : Nat) (sys : List Placed) :
    (buffersDistinct sys = false ∧ systemStep n sys = .refused .sharedBuffer) ∨
      (buffersDistinct sys = true ∧ sys[n]? = none ∧ systemStep n sys = .refused .noSuchInstance) ∨
      ∃ p, buffersDistinct sys = true ∧ sys[n]? = some p ∧ systemStep n sys = .next (sys.set n p.advance) := by
  unfold systemStep
  cases hb : buffersDistinct sys with
  | false => exact .inl ⟨rfl, rfl⟩
  | true =>
    cases hn : sys[n]? with
    | none => exact .inr (.inl ⟨rfl, rfl, rfl⟩)
    | some p => exact .inr (.inr ⟨p, rfl, rfl, rfl⟩)

/-- A step of an instance leaves its buffers where they are. -/
theorem bufferStorage_set_advance {sys : List Placed} {n : Nat} {p : Placed} (h : sys[n]? = some p) :
    bufferStorage (sys.set n p.advance) = bufferStorage sys := by
  induction sys generalizing n with
  | nil => rfl
  | cons q rest ih =>
    cases n with
    | zero => cases h; rfl
    | succ n => simpa [bufferStorage] using ih h

@[simp] theorem buffersDistinct_set_advance {sys : List Placed} {n : Nat} {p : Placed} (h : sys[n]? = some p) :
    buffersDistinct (sys.set n p.advance) = buffersDistinct sys := by
  unfold buffersDistinct
  rw [bufferStorage_set_advance h]

end Sys2Proof.Machine
end

