-- ==== Sys2Proof/Tests/Slice0.lean ====
section
/-! SUPPORT. Tests: the WellFormed smoke, every constructor's command word written out from R72 and R73, vectors of
95_test_vectors.md, and for each statement with hypotheses a state and operands that meet them. -/

namespace Sys2Proof.Tests

open Sys2Proof Sys2Proof.Machine

set_option maxRecDepth 8000

/-! ### Helpers -/

/-- The state a step answers, if it answers one. -/
def after (o : Host.Outcome State Fault Refusal) : Option State :=
  match o with
  | .next s => some s
  | .fault _ => none
  | .refused _ => none

/-- The fault a step ends in, if it ends in one. -/
def faultOf (o : Host.Outcome State Fault Refusal) : Option Fault :=
  match o with
  | .next _ => none
  | .fault f => some f
  | .refused _ => none

/-- The base arguments of 95_test_vectors.md section 0: SRC_NODE = 0x01, DST_NODE = 0x55, every other scalar 0. -/
def baseArgs : CargScalars :=
  ⟨0x01, 0x55, 0, 0, 0, 0, 0, 0, 0, 0, 0, 0, 0, 0, 0, 0, 0, 0, 0, 0, 0, 0, 0, 0, 0, 0⟩

/-- The arguments of V-HDR-2: every field distinct. -/
def distinctArgs : CargScalars :=
  ⟨0x7E, 0xFF, 1, 1, 0x02, 0x3, 1, 0x11223344, 0x55667788, 0x0102, 0x0304, 0xA1B2C3D4, 0x05, 0x06, 0x0708, 0x090A,
    0x0B0C, 0x0D0E, 0x0F10, 0x11, 0x12, 0x13, 0x14, 0x15, 0x16, 0x1718⟩

/-- "NODE1", "VENDORNAME", "MANUFACTURER" (R104's example). -/
def node1 : Bytes := [0x4E, 0x4F, 0x44, 0x45, 0x31]
def vendorName : Bytes := [0x56, 0x45, 0x4E, 0x44, 0x4F, 0x52, 0x4E, 0x41, 0x4D, 0x45]
def manufacturer : Bytes := [0x4D, 0x41, 0x4E, 0x55, 0x46, 0x41, 0x43, 0x54, 0x55, 0x52, 0x45, 0x52]

/-- V-HDR-1: the source's Token example in the test configuration. -/
def vHdr1 : Bytes :=
  [0x54, 0x45, 0x53, 0x54, 0x00, 0x00, 0x00, 0x40, 0x00, 0x01, 0x00, 0x01, 0x00, 0x01, 0x00, 0x55,
   0x00, 0x00, 0x00, 0x00, 0x00, 0x00, 0x00, 0x00, 0x00, 0x00, 0x00, 0x00, 0x00, 0x00, 0x00, 0x00,
   0x00, 0x00, 0x00, 0x00, 0x00, 0x00, 0x00, 0x00, 0xFD, 0xE8, 0x00, 0x00, 0x00, 0x00, 0x00, 0x00,
   0x00, 0x00, 0x00, 0x00, 0x00, 0x00, 0x00, 0x00, 0x00, 0x00, 0x00, 0x40, 0x00, 0x00, 0x00, 0x00]

/-- V-HDR-2: every field distinct. -/
def vHdr2 : Bytes :=
  [0x54, 0x45, 0x53, 0x54, 0x00, 0x00, 0x00, 0x40, 0x00, 0x01, 0x00, 0x7E, 0x00, 0x01, 0x00, 0xFF,
   0x11, 0x22, 0x33, 0x44, 0x55, 0x66, 0x77, 0x88, 0xC0, 0x00, 0x00, 0x00, 0x01, 0x02, 0x03, 0x04,
   0xA1, 0xB2, 0xC3, 0xD4, 0x05, 0x06, 0x00, 0x00, 0xFD, 0xE8, 0x07, 0x08, 0x09, 0x0A, 0x0B, 0x0C,
   0x0D, 0x0E, 0x0F, 0x10, 0x02, 0x31, 0x11, 0x12, 0x13, 0x14, 0x00, 0x40, 0x15, 0x16, 0x17, 0x18]

/-- V-TRG-1: the Trigger of R104's example. -/
def vTrg1 : Bytes :=
  [0x54, 0x45, 0x53, 0x54, 0x00, 0x00, 0x00, 0x60, 0x00, 0x01, 0x00, 0x01, 0x00, 0x01, 0x00, 0x55,
   0x00, 0x00, 0x00, 0x00, 0x00, 0x00, 0x00, 0x00, 0x00, 0x00, 0x00, 0x00, 0x00, 0x00, 0x00, 0x00,
   0x00, 0x00, 0x00, 0x00, 0x00, 0x00, 0x00, 0x00, 0xFD, 0xE9, 0x00, 0x00, 0x00, 0x00, 0x00, 0x00,
   0x00, 0x00, 0x00, 0x00, 0x00, 0x00, 0x00, 0x00, 0x00, 0x00, 0x00, 0x60, 0x00, 0x00, 0x00, 0x00,
   0x4E, 0x4F, 0x44, 0x45, 0x31, 0x20, 0x20, 0x20, 0x20, 0x20, 0x56, 0x45, 0x4E, 0x44, 0x4F, 0x52,
   0x4E, 0x41, 0x4D, 0x45, 0x4D, 0x41, 0x4E, 0x55, 0x46, 0x41, 0x43, 0x54, 0x55, 0x52, 0x00, 0x00]

/-- The header of the base arguments under a variant's code and length. -/
def baseHeader (tcd : BitVec 16) (total : Nat) : Header := mkHdr Config.artificialTest baseArgs tcd total

/-- Reset, then the base arguments, three names and the payload DE AD BE. -/
def withArgs : State :=
  { State.reset with carg := Carg.ofScalars baseArgs (Names.ofStrings node1 vendorName manufacturer) (some [0xDE, 0xAD, 0xBE]) }

/-- A state that holds a Token built from the base arguments. -/
def holdsToken : State :=
  { withArgs with hdr := HdrReg.ofHeader (baseHeader 0xFDE8 64), kind := .token }

/-- A state that holds a participation variant of the given kind and code, with its names as the host wrote them. -/
def holdsNames (k : Kind) (tcd : BitVec 16) : State :=
  { withArgs with
    hdr := HdrReg.ofHeader (baseHeader tcd 96), kind := k, name := Names.ofStrings node1 vendorName manufacturer }

/-- A state that holds a Cyclic frame with the payload DE AD BE. -/
def holdsCyclic : State :=
  { withArgs with
    hdr := HdrReg.ofHeader (baseHeader 0xFDEB 67), kind := .cyclic, payload := some [0xDE, 0xAD, 0xBE] }

/-- A state with an input buffer. -/
def received (b : Bytes) : State := { State.reset with inBuf := b }

/-- A buffer with bytes 40 and 41 replaced. -/
def withCode (b : Bytes) (hi lo : Byte) : Bytes := (b.set 40 hi).set 41 lo

/-! ### WellFormed: each check refuses an ill-formed term -/

theorem test_config_legal : Config.artificialTest.legal = true := by decide
theorem test_config_tag_not_ascii :
    Config.legal { Config.artificialTest with frameTypeTag := ⟨0x54, 0x80, 0x53, 0x54⟩ } = false := by decide
theorem test_config_code_below_65000 :
    Config.legal { Config.artificialTest with typecodeCyclic := 0xFDE7 } = false := by decide
theorem test_config_trigger_is_token :
    Config.legal { Config.artificialTest with typecodeTrigger := 0xFDE8 } = false := by decide
theorem test_config_preq_is_trigger :
    Config.legal { Config.artificialTest with typecodePreq := 0xFDE9 } = false := by decide
theorem test_config_buffer_below_96 :
    Config.legal { Config.artificialTest with maxBufLen := 95 } = false := by decide
theorem test_config_preq_may_be_token :
    Config.legal { Config.artificialTest with typecodePreq := 0xFDE8, maxBufLen := 96 } = true := by decide

/-- V-CMD-1 to V-CMD-9 (R75). -/
theorem test_illegal_words :
    [0x0000, 0x0100, 0x0200, 0x0230, 0x0131, 0x0121, 0x0041, 0x00FF, 0x8030].all
      (fun w => !commandLegal (BitVec.ofNat 16 w)) = true := by decide

/-! ### Decode: every constructor's word, written out from R72 and R73 (RSV, A, OP) -/

theorem test_decode_packing :
    decode 0b0000000_0_00000001#16 = .ok .packCtl ∧ decode 0b0000000_0_00000010#16 = .ok .packMode ∧
    decode 0b0000000_0_00000011#16 = .ok .makeAddr ∧ decode 0b0000000_0_00000100#16 = .ok .unpackCtl ∧
    decode 0b0000000_0_00000101#16 = .ok .unpackMode := ⟨rfl, rfl, rfl, rfl, rfl⟩

theorem test_decode_header_codec :
    decode 0b0000000_0_00010000#16 = .ok (.hdrEnc false) ∧ decode 0b0000000_1_00010000#16 = .ok (.hdrEnc true) ∧
    decode 0b0000000_0_00010001#16 = .ok .hdrDec := ⟨rfl, rfl, rfl⟩

theorem test_decode_constructors :
    decode 0b0000000_0_00100000#16 = .ok .fit10 ∧ decode 0b0000000_0_00100001#16 = .ok .mkToken ∧
    decode 0b0000000_0_00100010#16 = .ok .mkTrig ∧ decode 0b0000000_0_00100011#16 = .ok .mkPreq ∧
    decode 0b0000000_0_00100100#16 = .ok .mkCyc := ⟨rfl, rfl, rfl, rfl, rfl⟩

theorem test_decode_variant_encodes :
    decode 0b0000000_0_00110000#16 = .ok (.tokenEnc false) ∧ decode 0b0000000_1_00110000#16 = .ok (.tokenEnc true) ∧
    decode 0b0000000_0_00110010#16 = .ok (.trigEnc false) ∧ decode 0b0000000_1_00110010#16 = .ok (.trigEnc true) ∧
    decode 0b0000000_0_00110100#16 = .ok (.preqEnc false) ∧ decode 0b0000000_1_00110100#16 = .ok (.preqEnc true) ∧
    decode 0b0000000_0_00110110#16 = .ok (.cycEnc false) ∧ decode 0b0000000_1_00110110#16 = .ok (.cycEnc true) :=
  ⟨rfl, rfl, rfl, rfl, rfl, rfl, rfl, rfl⟩

theorem test_decode_variant_decodes_and_parse :
    decode 0b0000000_0_00110001#16 = .ok .tokenDec ∧ decode 0b0000000_0_00110011#16 = .ok .trigDec ∧
    decode 0b0000000_0_00110101#16 = .ok .preqDec ∧ decode 0b0000000_0_00110111#16 = .ok .cycDec ∧
    decode 0b0000000_0_01000000#16 = .ok .parse := ⟨rfl, rfl, rfl, rfl, rfl⟩

/-- The step fetches the table's word and runs it, as the first command after reset: HDR_DEC of an empty IN_BUF (V-ERR-7). -/
theorem test_step_runs_fetch_word :
    (after (step (State.reset.withFetchWord 16 0x0011))).map (fun s => (s.cmd, s.status, s.host)) =
      some (0x0011#16, 0x01#8, []) := by decide

/-! ### One step each: vectors of 95_test_vectors.md -/

/-- V-PK-3, V-PK-11. -/
theorem test_pack_ctl :
    ((after (exec .packCtl (State.setCarg .reset { Carg.unwritten with thFlag := some 0, partFlag := some 1 }))).map
      fun s => s.hdr.mctl) = some (some 0x40000000) ∧
    faultOf (exec .packCtl State.reset) = some (.unwritten (.carg (.w1 .thFlag))) := by decide

/-- V-PK-5, V-PK-7. -/
theorem test_pack_mode :
    packModeFlags 0x02 0x1 1 = 0x0211#16 ∧ packModeFlags 0xFF 0xF 1 = 0xFFF1#16 := by decide

/-- V-PK-10. -/
theorem test_make_addr :
    ((after (exec .makeAddr
      (State.setCarg .reset { Carg.unwritten with srcNode := some 0x00, dstNode := some 0xFF }))).map
      fun s => (s.hdr.sa, s.hdr.da)) = some (some 0x00010000, some 0x000100FF) := by decide

/-- V-UP-2. -/
theorem test_unpack_ctl :
    ((after (exec .unpackCtl (State.setHdr .reset { HdrReg.unwritten with mctl := some 0x4000ABCD }))).map
      fun s => (s.carg.thFlag, s.carg.partFlag)) = some (some 0, some 1) := by decide

/-- V-UP-4, V-UP-5. -/
theorem test_unpack_mode :
    (modeMinor 0x020F, modeMajor 0x020F, modeTmode 0x020F) = (0x02#8, 0x0#4, 1#1) ∧
    (modeMinor 0xFFFE, modeMajor 0xFFFE, modeTmode 0xFFFE) = (0xFF#8, 0xF#4, 0#1) := by decide

/-- V-HDR-2's bytes, from its arguments. -/
theorem test_hdr_bytes : hdrBytes (mkHdr Config.artificialTest distinctArgs 0xFDE8 64) = vHdr2 := by decide

/-- V-HDR-3: bytes from 64 on keep their values, and V-HDR-9. -/
theorem test_hdr_enc_in_place :
    ((after (exec (.hdrEnc false) { holdsToken with outBuf := List.replicate 70 0xAA })).map
      fun s => (s.outBuf, s.outLen)) = some (vHdr1 ++ List.replicate 6 0xAA, 64) ∧
    faultOf (exec (.hdrEnc true) State.reset) = some (.unwritten (.hdr .ftt)) := by decide

/-- MRLT comes from offset 37 and TBN from offset 57 (V-HDR-2, R164). -/
theorem test_hdr_dec :
    ((after (exec .hdrDec (received vHdr2))).map
      fun s => (s.hdr.mrlt, s.hdr.tbn, s.hdr.madd, s.hdr.rct, s.kind)) =
      some (some 0x06, some 0x14, some 0xA1B2C3D4, some 0x1718, .none) := by decide

/-- V-FIT-1, V-FIT-2, V-FIT-5, V-FIT-6. -/
theorem test_fit10 :
    fit10 [] = List.replicate 10 0x20 ∧ fit10 node1 = node1 ++ List.replicate 5 0x20 ∧
    fit10 manufacturer = manufacturer.take 10 ∧
    fit10 [0x41, 0x42, 0x20, 0x20] = [0x41, 0x42] ++ List.replicate 8 0x20 := by decide

theorem test_fit10_step :
    ((after (exec .fit10 withArgs)).map fun s => (s.name.manufacturer, s.kind)) =
      some (some (manufacturer.take 10), .none) := by decide

/-- V-TOK-1. -/
theorem test_mk_token :
    ((after (exec .mkToken withArgs)).map fun s => (s.kind, s.hdr.tfl, s.hdr.bsize, s.hdr.tcd, s.hdr.da)) =
      some (.token, some 0x40, some 0x40, some 0xFDE8, some 0x00010055) := by decide

/-- V-TRG-1. -/
theorem test_mk_trig :
    ((after (exec .mkTrig withArgs)).map fun s => (s.kind, s.hdr.tfl, s.hdr.tcd, s.name.node)) =
      some (.trigger, some 0x60, some 0xFDE9, some (node1 ++ List.replicate 5 0x20)) := by decide

/-- V-PRQ-1. -/
theorem test_mk_preq :
    ((after (exec .mkPreq withArgs)).map fun s => (s.kind, s.hdr.bsize, s.hdr.tcd)) =
      some (.preq, some 0x60, some 0xFDEA) := by decide

/-- V-CYC-1. -/
theorem test_mk_cyc :
    ((after (exec .mkCyc withArgs)).map fun s => (s.hdr.tfl, s.hdr.bsize, s.hdr.tcd, s.payload)) =
      some (some 67, some 0x43, some 0xFDEB, some [0xDE, 0xAD, 0xBE]) := by decide

/-- V-CYC-5: UNWRITTEN(CARG.VSEQ) and not ARG_OUT_OF_RANGE, whatever the payload. -/
theorem test_mk_cyc_unwritten_first (p : Bytes) :
    exec .mkCyc { withArgs with carg := { Carg.ofScalars baseArgs Names.unwritten (some p) with vseq := none } } =
      .fault (.unwritten (.carg (.w32 .vseq))) := rfl

/-- V-TOK-1, V-ENC-2. -/
theorem test_token_enc :
    ((after (exec (.tokenEnc true) holdsToken)).map fun s => (s.outBuf, s.outLen)) = some (vHdr1, 64) ∧
    ((after (exec (.tokenEnc false) State.reset)).map fun s => s.status) = some 0x7F := by decide

/-- V-DEC-5: a Trigger's bytes decode as a Token, TCD not checked. -/
theorem test_token_dec :
    ((after (exec .tokenDec (received vTrg1))).map fun s => (s.kind, s.hdr.tcd, s.name)) =
      some (.token, some 0xFDE9, Names.unwritten) := by decide

/-- V-TRG-1's bytes. -/
theorem test_trig_enc :
    ((after (exec (.trigEnc true) (holdsNames .trigger 0xFDE9))).map fun s => (s.outBuf, s.outLen)) =
      some (vTrg1, 96) := by decide

/-- V-ENC-3: 90 bytes are too few. -/
theorem test_trig_enc_short :
    ((after (exec (.trigEnc false) { holdsNames .trigger 0xFDE9 with outBuf := List.replicate 90 0xAA })).map
      fun s => (s.status, s.outBuf, s.outLen)) = some (0x02, List.replicate 90 0xAA, 0) := by decide

/-- V-DEC-2. -/
theorem test_trig_dec :
    ((after (exec .trigDec (received vTrg1))).map fun s => (s.kind, s.name.node, s.name.manufacturer)) =
      some (.trigger, some (node1 ++ List.replicate 5 0x20), some (manufacturer.take 10)) := by decide

/-- V-ERR-5. -/
theorem test_trig_dec_short :
    ((after (exec .trigDec (received (vTrg1.take 95)))).map fun s => (s.status, s.kind)) = some (0x01, .none) := by decide

/-- V-PRQ-1: V-TRG-1 with bytes 40 and 41 = FD EA. -/
theorem test_preq_enc :
    ((after (exec (.preqEnc true) (holdsNames .preq 0xFDEA))).map fun s => s.outBuf) =
      some (withCode vTrg1 0xFD 0xEA) := by decide

/-- V-DEC-4. -/
theorem test_preq_dec :
    ((after (exec .preqDec (received (withCode vTrg1 0xFD 0xEA)))).map fun s => (s.status, s.kind, s.hdr.tcd)) =
      some (0x00, .preq, some 0xFDEA) := by decide

/-- V-CYC-1's last bytes, and V-ENC-8. -/
theorem test_cyc_enc :
    ((after (exec (.cycEnc true) holdsCyclic)).map fun s => (s.outLen, s.outBuf.drop 58)) =
      some (67, [0x00, 0x43, 0x00, 0x00, 0x00, 0x00, 0xDE, 0xAD, 0xBE]) ∧
    ((after (exec (.cycEnc false) { holdsCyclic with outBuf := List.replicate 66 0x00 })).map fun s => s.status) =
      some 0x02 := by decide

/-- V-DEC-8. -/
theorem test_cyc_dec :
    ((after (exec .cycDec (received vHdr1))).map fun s => (s.kind, s.payload)) = some (.cyclic, some []) := by decide

/-- V-PAR-1, V-PAR-3, V-PAR-4, V-PAR-5, V-PAR-7. -/
theorem test_parse :
    ((after (exec .parse (received vHdr1))).map fun s => (s.status, s.kind)) = some (0x00, .token) ∧
    ((after (exec .parse (received (withCode vHdr1 0xFD 0xE9)))).map fun s => s.status) = some 0x81 ∧
    ((after (exec .parse (received (withCode vHdr1 0x00 0x00)))).map fun s => s.status) = some 0x03 ∧
    ((after (exec .parse (received (withCode vTrg1 0xFD 0xEA)))).map fun s => s.status) = some 0x03 ∧
    ((after (exec .parse (received (vHdr1.take 63)))).map fun s => s.status) = some 0x01 := by decide

/-- V-PAR-2. -/
theorem test_parse_trigger :
    ((after (exec .parse (received vTrg1))).map fun s => (s.status, s.kind, s.name.vendor)) =
      some (0x00, .trigger, some vendorName) := by decide

/-- R78's example and R79's expansion of SEND TOKEN. -/
theorem test_assembly :
    assembly (.tokenEnc true) = "TOKEN_ENC.A" ∧ encode (.tokenEnc true) = 0x0130#16 ∧
    sendEntries .token = [.command 0x0021#16, .command 0x0130#16] := ⟨rfl, rfl, rfl⟩

/-! ### Witnesses: the hypotheses of each statement are met, clause by clause, at the boundary where there is one -/

theorem witness_PackCtlPacksFlags :
    (withArgs.carg.thFlag = some 0 ∧ withArgs.carg.partFlag = some 0) ∧
    (State.reset.carg.thFlag = none ∨ State.reset.carg.partFlag = none) := by decide

theorem witness_PackModePacksVersions :
    (withArgs.carg.minor = some 0 ∧ withArgs.carg.major = some 0 ∧ withArgs.carg.tmode = some 0) ∧
    (State.reset.carg.minor = none ∨ State.reset.carg.major = none ∨ State.reset.carg.tmode = none) := by decide

theorem witness_MakeAddrFormsAddresses :
    (withArgs.carg.srcNode = some 0x01 ∧ withArgs.carg.dstNode = some 0x55) ∧
    (State.reset.carg.srcNode = none ∨ State.reset.carg.dstNode = none) := by decide

theorem witness_UnpackCtlSplitsFlags :
    (holdsToken.hdr.mctl = some 0) ∧ State.reset.hdr.mctl = none := by decide

theorem witness_UnpackModeSplitsVersions :
    (holdsToken.hdr.mode = some 0) ∧ State.reset.hdr.mode = none := by decide

/-- The four laws of R95: arguments written, and MCTL and MODE written. -/
theorem witness_PackingLaws :
    (withArgs.carg.thFlag = some 0 ∧ withArgs.carg.partFlag = some 0) ∧
    (withArgs.carg.minor = some 0 ∧ withArgs.carg.major = some 0 ∧ withArgs.carg.tmode = some 0) ∧
    holdsToken.hdr.mctl = some 0 ∧ holdsToken.hdr.mode = some 0 := by decide

/-- Ranges that end at the buffer's end, and offsets just outside them. -/
theorem witness_BufferPrimitivesAreBigEndian :
    60 + 4 ≤ vHdr1.length ∧ 2 ^ 32 - 1 < 256 ^ 4 ∧ (59 < 60 ∨ 60 + 4 ≤ 59) ∧ 60 + vendorName.length ≤ vTrg1.length ∧
    (60 < 60 ∨ 60 + 4 ≤ 64) := by decide

theorem witness_HeaderParseReadsFields : 64 ≤ vHdr1.length := by decide

theorem witness_HeaderRoundTripRecordFirst :
    holdsToken.config.legal = true ∧ holdsToken.hdr = HdrReg.ofHeader (baseHeader 0xFDE8 64) := ⟨by decide, rfl⟩

theorem witness_HeaderRoundTripBytesFirst : vHdr1.length = 64 ∧ 64 < (vHdr1 ++ [0x01]).length := by decide

/-- Written HDR with 64 bytes of room, with 63, and ⊥. -/
theorem witness_HdrEncWritesHeader :
    holdsToken.hdr = HdrReg.ofHeader (baseHeader 0xFDE8 64) ∧
    64 ≤ (State.setOutBuf holdsToken (List.replicate 64 0xAA)).outBuf.length ∧
    (State.setOutBuf holdsToken (List.replicate 63 0xAA)).outBuf.length < 64 ∧
    State.reset.readRegister (.hdr .ftt) = none := ⟨rfl, by decide, by decide, rfl⟩

theorem witness_HdrDecReadsHeader : 64 ≤ (received vHdr1).inBuf.length ∧ (received (vHdr1.take 63)).inBuf.length < 64 := by
  decide

theorem witness_FitTenTruncatesOrPads : 10 ≤ vendorName.length ∧ (vendorName.take 9).length < 10 := by decide

theorem witness_FitTenStoresNames :
    withArgs.carg.nameIn = Names.ofStrings node1 vendorName manufacturer ∧
    State.reset.readRegister (.nameIn .node) = none := ⟨rfl, rfl⟩

theorem witness_ConstructorHeaderFields : (65535 : Nat) < 65536 := by decide

theorem witness_MkTokenBuildsToken :
    withArgs.carg = Carg.ofScalars baseArgs (Names.ofStrings node1 vendorName manufacturer) (some [0xDE, 0xAD, 0xBE]) ∧
    State.reset.readRegister (.carg (.w8 .srcNode)) = none := ⟨rfl, rfl⟩

theorem witness_MkTrigBuildsTrigger :
    withArgs.carg = Carg.ofScalars baseArgs (Names.ofStrings node1 vendorName manufacturer) (some [0xDE, 0xAD, 0xBE]) ∧
    State.reset.readRegister (.carg (.w8 .srcNode)) = none ∧ State.reset.readRegister (.nameIn .node) = none :=
  ⟨rfl, rfl, rfl⟩

theorem witness_MkPreqBuildsRequest :
    withArgs.carg = Carg.ofScalars baseArgs (Names.ofStrings node1 vendorName manufacturer) (some [0xDE, 0xAD, 0xBE]) ∧
    State.reset.readRegister (.carg (.w16 .rct)) = none ∧ State.reset.readRegister (.nameIn .manufacturer) = none :=
  ⟨rfl, rfl, rfl⟩

/-- A payload of n bytes for MK_CYC. -/
def withPayload (n : Nat) : State :=
  { withArgs with carg := Carg.ofScalars baseArgs Names.unwritten (some (List.replicate n 0x5A)) }

/-- V-CYC-3 and V-CYC-4: 65471 bytes and 65472 bytes. -/
theorem witness_MkCycBuildsCyclic :
    ((withPayload 65471).carg = Carg.ofScalars baseArgs Names.unwritten (some (List.replicate 65471 0x5A)) ∧
      (List.replicate 65471 (0x5A#8 : Byte)).length ≤ 65471) ∧
    ((withPayload 65472).carg = Carg.ofScalars baseArgs Names.unwritten (some (List.replicate 65472 0x5A)) ∧
      65471 < (List.replicate 65472 (0x5A#8 : Byte)).length) ∧
    State.reset.readRegister (.carg (.w32 .vseq)) = none ∧ State.reset.carg.payloadIn = none :=
  ⟨⟨rfl, by rw [List.length_replicate]⟩, ⟨rfl, by rw [List.length_replicate]; decide⟩, rfl, rfl⟩

theorem witness_TokenEncWritesFrame :
    holdsToken.kind = .token ∧ holdsToken.hdr = HdrReg.ofHeader (baseHeader 0xFDE8 64) ∧
    64 ≤ (State.setOutBuf holdsToken (List.replicate 64 0xAA)).outBuf.length ∧
    (State.setOutBuf holdsToken (List.replicate 63 0xAA)).outBuf.length < 64 ∧
    (State.kind { State.reset with kind := .token } = .token ∧
      State.readRegister { State.reset with kind := .token } (.hdr .ftt) = none) ∧
    State.reset.kind ≠ .token := ⟨rfl, rfl, by decide, by decide, ⟨rfl, rfl⟩, by decide⟩

theorem witness_TokenDecReadsFrame :
    64 ≤ (received vHdr1).inBuf.length ∧ (received (vHdr1.take 63)).inBuf.length < 64 := by decide

theorem witness_TrigEncWritesFrame :
    let s := holdsNames .trigger 0xFDE9
    (s.kind = .trigger ∧ s.hdr = HdrReg.ofHeader (baseHeader 0xFDE9 96) ∧
      s.name = Names.ofStrings node1 vendorName manufacturer) ∧
    96 ≤ (s.setOutBuf (List.replicate 96 0xAA)).outBuf.length ∧ (s.setOutBuf (List.replicate 95 0xAA)).outBuf.length < 96 ∧
    (State.readRegister { State.reset with kind := .trigger } (.hdr (.w16 .rct)) = none ∧
      State.readRegister { State.reset with kind := .trigger } (.name .node) = none) ∧
    State.reset.kind ≠ .trigger := ⟨⟨rfl, rfl, rfl⟩, by decide, by decide, ⟨rfl, rfl⟩, by decide⟩

theorem witness_TrigDecReadsFrame :
    96 ≤ (received vTrg1).inBuf.length ∧ (received (vTrg1.take 95)).inBuf.length < 96 := by decide

theorem witness_PreqEncWritesFrame :
    let s := holdsNames .preq 0xFDEA
    (s.kind = .preq ∧ s.hdr = HdrReg.ofHeader (baseHeader 0xFDEA 96) ∧
      s.name = Names.ofStrings node1 vendorName manufacturer) ∧
    96 ≤ (s.setOutBuf (List.replicate 96 0xAA)).outBuf.length ∧ (s.setOutBuf (List.replicate 95 0xAA)).outBuf.length < 96 ∧
    (State.readRegister { State.reset with kind := .preq } (.hdr (.w16 .rct)) = none ∧
      State.readRegister { State.reset with kind := .preq } (.name .manufacturer) = none) ∧
    State.reset.kind ≠ .preq := ⟨⟨rfl, rfl, rfl⟩, by decide, by decide, ⟨rfl, rfl⟩, by decide⟩

theorem witness_PreqDecReadsFrame :
    96 ≤ (received vTrg1).inBuf.length ∧ (received (vTrg1.take 95)).inBuf.length < 96 := by decide

theorem witness_CycEncWritesFrame :
    (holdsCyclic.kind = .cyclic ∧ holdsCyclic.hdr = HdrReg.ofHeader (baseHeader 0xFDEB 67) ∧
      holdsCyclic.payload = some [0xDE, 0xAD, 0xBE]) ∧
    64 + 3 ≤ (holdsCyclic.setOutBuf (List.replicate 67 0xAA)).outBuf.length ∧
    (holdsCyclic.setOutBuf (List.replicate 66 0xAA)).outBuf.length < 64 + 3 ∧
    (State.readRegister { State.reset with kind := .cyclic } (.hdr .ftt) = none ∧
      State.payload { State.reset with kind := .cyclic } = none) ∧
    State.reset.kind ≠ .cyclic := ⟨⟨rfl, rfl, rfl⟩, by decide, by decide, ⟨rfl, rfl⟩, by decide⟩

theorem witness_CycDecReadsFrame :
    64 ≤ (received vHdr1).inBuf.length ∧ (received (vHdr1.take 63)).inBuf.length < 64 := by decide

theorem witness_TokenRoundTrip :
    (holdsToken.config.legal = true ∧ holdsToken.kind = .token ∧ holdsToken.hdr = HdrReg.ofHeader (baseHeader 0xFDE8 64)) ∧
    ((received vHdr1).inBuf.length = 64 ∧ readByte (received vHdr1).inBuf 38 = some 0x00#8 ∧
      readByte (received vHdr1).inBuf 39 = some 0x00#8) := ⟨⟨by decide, rfl, rfl⟩, by decide⟩

/-- Names of other lengths, and names of exactly 10 bytes; both kinds; a 96-byte capture. -/
theorem witness_ParticipationRoundTrip :
    ((holdsNames .trigger 0xFDE9).config.legal = true ∧ (holdsNames .trigger 0xFDE9).kind = .trigger ∧
      (holdsNames .trigger 0xFDE9).hdr = HdrReg.ofHeader (baseHeader 0xFDE9 96) ∧
      (holdsNames .trigger 0xFDE9).name = Names.ofStrings node1 vendorName manufacturer) ∧
    ((holdsNames .preq 0xFDEA).config.legal = true ∧ (holdsNames .preq 0xFDEA).kind = .preq ∧
      (holdsNames .preq 0xFDEA).hdr = HdrReg.ofHeader (baseHeader 0xFDEA 96) ∧
      (holdsNames .preq 0xFDEA).name = Names.ofStrings node1 vendorName manufacturer) ∧
    vendorName.length = 10 ∧ (received vTrg1).inBuf.length = 96 :=
  ⟨⟨by decide, rfl, rfl, rfl⟩, ⟨by decide, rfl, rfl, rfl⟩, by decide, by decide⟩

/-- A frame that fills the smallest MAX_BUF_LEN exactly: 64 + 32 = 96 bytes. -/
theorem witness_CyclicRoundTripAndItsLimit :
    let s := { holdsCyclic with
      payload := some (List.replicate 32 0x5A), config := { Config.artificialTest with maxBufLen := 96 } }
    s.kind = .cyclic ∧ s.hdr = HdrReg.ofHeader (baseHeader 0xFDEB 67) ∧ s.payload = some (List.replicate 32 0x5A) ∧
      64 + (List.replicate 32 (0x5A#8 : Byte)).length ≤ s.config.maxBufLen := ⟨rfl, rfl, rfl, by decide⟩

/-- One state for each case of PARSE, at its length's boundary. -/
theorem witness_ParseDispatches :
    (received (vHdr1.take 63)).inBuf.length < 64 ∧
    ((received vHdr1).config.legal = true ∧ 64 ≤ (received vHdr1).inBuf.length ∧
      memRead (received vHdr1).inBuf 40 2 = (received vHdr1).config.typecodeToken.toNat) ∧
    (96 ≤ (received vTrg1).inBuf.length ∧
      memRead (received vTrg1).inBuf 40 2 = (received vTrg1).config.typecodeTrigger.toNat) ∧
    (64 ≤ (received (vTrg1.take 95)).inBuf.length ∧ (received (vTrg1.take 95)).inBuf.length < 96 ∧
      memRead (received (vTrg1.take 95)).inBuf 40 2 = (received vTrg1).config.typecodeTrigger.toNat) ∧
    (memRead (withCode vHdr1 0xFD 0xEA) 40 2 ≠ (received vHdr1).config.typecodeToken.toNat ∧
      memRead (withCode vHdr1 0xFD 0xEA) 40 2 ≠ (received vHdr1).config.typecodeTrigger.toNat) := by decide

/-- V-PAR-8: another tag, the same length and type code. -/
theorem witness_ParseSelectsOnTypeCodeAlone :
    (vHdr1.set 0 0x58).length = (received vHdr1).inBuf.length ∧
    readByte (vHdr1.set 0 0x58) 40 = readByte (received vHdr1).inBuf 40 ∧
    readByte (vHdr1.set 0 0x58) 41 = readByte (received vHdr1).inBuf 41 := by decide

theorem witness_DispatchEndToEnd :
    withArgs.config.legal = true ∧
    withArgs.carg = Carg.ofScalars baseArgs (Names.ofStrings node1 vendorName manufacturer) (some [0xDE, 0xAD, 0xBE]) :=
  ⟨by decide, rfl⟩

theorem witness_IllegalWordsAreRejected : commandLegal 0x0041#16 = false := by decide

/-- PARSE of an empty IN_BUF ends with an error. -/
theorem witness_ErrorsChangeOnlyStatus :
    ∃ t, issueCommand 0x0040#16 State.reset = .next t ∧ t.status ≠ 0x00#8 := ⟨_, rfl, by decide⟩

theorem witness_UnwrittenExactlyOnReadSet :
    exec .packCtl State.reset = .fault (.unwritten (.carg (.w1 .thFlag))) := rfl

/-- An encode, a decode, and an operation of the packing family, each with a next state. -/
theorem witness_OperationsWriteOnlyTheirRegisters :
    (∃ t, exec (.hdrEnc true) holdsToken = .next t ∧ isEncode (.hdrEnc true) = true ∧ writesVariant (.hdrEnc true) = false) ∧
    (∃ t, exec .hdrDec (received vHdr1) = .next t ∧ isEncode .hdrDec = false) ∧
    (∃ t, exec .unpackCtl holdsToken = .next t ∧ writesVariant .unpackCtl = false) :=
  ⟨⟨_, rfl, rfl, rfl⟩, ⟨_, rfl, rfl⟩, ⟨_, rfl, rfl⟩⟩

/-- Both output forms, and offsets on both sides of the frame's end. -/
theorem witness_EncodeStoresExactlyTheFrame :
    (storedFrame (.tokenEnc true) holdsToken = some vHdr1 ∧
      ((after (exec (.tokenEnc true) holdsToken)).map fun t => t.status) = some 0x00) ∧
    (storedFrame (.tokenEnc false) (holdsToken.setOutBuf (List.replicate 65 0xAA)) = some vHdr1 ∧
      ((after (exec (.tokenEnc false) (holdsToken.setOutBuf (List.replicate 65 0xAA)))).map fun t => t.status) = some 0x00) ∧
    63 < vHdr1.length ∧ vHdr1.length ≤ 64 := by decide

theorem witness_DecodesDependOnInputAlone :
    Instr.parse ∈ decodeOperations ∧ (received vHdr1).inBuf = (State.setInBuf holdsToken vHdr1).inBuf ∧
    (received vHdr1).config = (State.setInBuf holdsToken vHdr1).config ∧
    ((after (exec .parse (received vHdr1))).map fun t => t.status) = some 0x00 := by decide

theorem witness_VariantOwnsItsBody :
    writesVariant .mkTrig = true ∧ ((after (exec .mkTrig withArgs)).map fun t => t.status) = some 0x00 := by decide

theorem witness_ConstructorsKeepLengthsConsistent :
    ((.mkCyc, .cycEnc true, .cyclic) : Instr × Instr × Kind) ∈ constructors ∧
    ((after (exec .mkCyc withArgs)).map fun t => t.status) = some 0x00 := by decide

theorem witness_StepRunsTheDecodedOperation :
    (State.reset.withFetchWord 16 0x0040).config.legal = true ∧
    (State.reset.withFetchWord 16 0x0040).host = .command 0x0040#16 :: [] ∧ decode 0x0040#16 = .ok .parse :=
  ⟨by decide, rfl, rfl⟩

/-- The configuration with the smallest MAX_BUF_LEN, at reset. -/
def smallest : State := State.resetWith { Config.artificialTest with maxBufLen := 96 }

/-- A write of 96 bytes where 96 fit, one register left alone, and a write of 97 bytes. -/
theorem witness_HostWritesOneRegister :
    (HostWrite.inBuf (List.replicate 96 0x00)).overfills smallest.config = none ∧
    Register.outBuf ∉ (HostWrite.inBuf (List.replicate 96 0x00)).touched ∧
    smallest.config.maxBufLen < (List.replicate 97 (0x00#8 : Byte)).length := by decide

theorem witness_HostLoopbackAndCheck :
    (holdsToken.setOutput vHdr1 64).outLen ≤ (holdsToken.setOutput vHdr1 64).outBuf.length ∧
    (holdsToken.setOutput vHdr1 64).outLen ≤ holdsToken.config.maxBufLen ∧
    (holdsToken.setOutput (vHdr1.take 63) 64).outBuf.length < (holdsToken.setOutput (vHdr1.take 63) 64).outLen ∧
    (State.reset.readRegister .kind = some (.kind .none) ∧ checkHolds .kind (.kind .none) State.reset = true) ∧
    (State.reset.readRegister .payload = none ∧ checkHolds .payload (.string []) State.reset = false) := by decide

/-- A reset event before one more entry, in a state that is not the reset state. -/
theorem witness_ResetEventRestoresResetValues :
    holdsToken.config.legal = true ∧ (holdsToken.setHost [.reset, .loopback]).host = .reset :: [.loopback] :=
  ⟨by decide, rfl⟩

theorem witness_IdleHoldsState : holdsToken.config.legal = true ∧ holdsToken.host = [] := ⟨by decide, rfl⟩

theorem witness_IllegalConfigurationIsRefused :
    (State.resetWith { Config.artificialTest with typecodeTrigger := 0xFDE8 }).config.legal = false := by decide

theorem witness_ConfigurationIsFixed :
    ∃ t, step (State.reset.withFetchWord 16 0x0040) = .next t := ⟨_, rfl⟩

/-- The invariant in a state with written registers and a command to run, and the step it takes. -/
theorem witness_StepKeepsInvariant :
    (holdsCyclic.withFetchWord 16 0x0136).Inv ∧ ∃ t, step (holdsCyclic.withFetchWord 16 0x0136) = .next t := by
  refine ⟨⟨by decide, by decide, by decide, ?_, ?_, ?_, ?_, by decide⟩, _, rfl⟩
  · refine ⟨?_, ?_, ?_⟩ <;> intro b hb <;> cases hb
  · intro b hb; cases hb; decide
  · refine ⟨?_, ?_, ?_⟩ <;> intro b hb <;> cases hb <;> decide
  · intro b hb; cases hb; decide

/-- Two instances, each with one command to run right after reset; the second's OUT_BUF is the given storage. -/
def pair (shared first second : Nat) : List Placed :=
  [⟨0, 1, .running (State.reset.withFetchWord 16 first)⟩, ⟨2, shared, .running (State.reset.withFetchWord 16 second)⟩]

/-- How the instances of a system stand after a run of it. -/
def runsAfter (schedule : List Nat) (sys : List Placed) : Option (List Run) :=
  match systemRun schedule sys with
  | .next x => some (x.map Placed.run)
  | .fault _ => none
  | .refused _ => none

/-- PACK_CTL and PACK_MODE right after reset (V-PK-11): each instance faults in its own step, in either order (R58, D27). -/
theorem test_one_fault_leaves_the_other :
    runsAfter [0, 1] (pair 3 0x0001 0x0002) =
      some [.faulted (.unwritten (.carg (.w1 .thFlag))), .faulted (.unwritten (.carg (.w8 .minor)))] ∧
    runsAfter [1, 0] (pair 3 0x0001 0x0002) = runsAfter [0, 1] (pair 3 0x0001 0x0002) := by decide

/-- Four buffers of their own, with an instance that faults and one that runs on; and two that share one. -/
theorem witness_InstancesAreIndependent :
    (buffersDistinct (pair 3 0x0001 0x0011) = true ∧ ∃ p, (pair 3 0x0001 0x0011)[0]? = some p) ∧
    (∃ x y, (0 : Nat) ≠ 1 ∧ systemStep 0 (pair 3 0x0001 0x0011) = .next x ∧ systemStep 1 x = .next y) ∧
    buffersDistinct (pair 1 0x0040 0x0011) = false :=
  ⟨⟨by decide, _, rfl⟩, ⟨_, _, by decide, rfl, rfl⟩, by decide⟩

theorem witness_InterleavingsGiveTheSameResults :
    buffersDistinct (pair 3 0x0001 0x0011) = true ∧ ∀ n ∈ [1, 0, 1], n < (pair 3 0x0001 0x0011).length := by decide

end Sys2Proof.Tests
end

section
/-! PROOFS of the scope statements: the buffer primitives of R11 byte by byte (O7), and the legality of a configuration
by R7 (O54). -/

namespace Sys2Proof.Machine

/-! ### Reading a range of a buffer (R11) -/

theorem memReadBytes_length {B : Bytes} {off n : Nat} (h : off + n ≤ B.length) : (memReadBytes B off n).length = n := by
  simp only [memReadBytes, List.length_take, List.length_drop]
  omega

/-- Byte k of a range read is the buffer's byte k places past the range's start, in the buffer or not. -/
theorem readByte_memReadBytes {B : Bytes} {off n k : Nat} (hk : k < n) :
    readByte (memReadBytes B off n) k = readByte B (off + k) := by
  simp only [readByte, memReadBytes, List.getElem?_take_of_lt hk, List.getElem?_drop]

/-- A range one byte longer reads one byte more, at its end. -/
theorem memReadBytes_succ {B : Bytes} {off n : Nat} (h : off + (n + 1) ≤ B.length) :
    memReadBytes B off (n + 1) = memReadBytes B off n ++ [B.getD (off + n) 0] := by
  have hin : off + n < B.length := by omega
  simp [memReadBytes, List.take_add_one, List.getD_eq_getElem?_getD, List.getElem?_eq_getElem hin]

/-- Horner's step of MemRead: a range one byte longer shifts the value up by one digit in base 256. -/
theorem memRead_succ {B : Bytes} {off n : Nat} (h : off + (n + 1) ≤ B.length) :
    memRead B off (n + 1) = memRead B off n * 256 + (B.getD (off + n) 0).toNat := by
  rw [memRead, memReadBytes_succ h, beNat_append_byte, memRead]

/-- MemRead is the sum of the bytes of its range, the first with the highest power of 256. -/
theorem memRead_eq_sum (B : Bytes) (off n : Nat) (h : off + n ≤ B.length) :
    memRead B off n = ((List.range n).map fun k => (B.getD (off + k) 0).toNat * 256 ^ (n - 1 - k)).sum := by
  induction n with
  | zero => simp [memRead, memReadBytes, beNat]
  | succ n ih =>
    have weights : ∀ k ∈ List.range n, (B.getD (off + k) 0).toNat * 256 ^ (n + 1 - 1 - k) =
        (B.getD (off + k) 0).toNat * 256 ^ (n - 1 - k) * 256 := fun k hk => by
      have hexp : n + 1 - 1 - k = n - 1 - k + 1 := by have := List.mem_range.mp hk; omega
      rw [hexp, pow_succ, mul_assoc]
    rw [memRead_succ h, ih (by omega), List.range_succ, List.map_append, List.sum_append, List.map_congr_left weights,
      List.sum_map_mul_right]
    simp

/-! ### Writing a range of a buffer (R11, R44) -/

/-- Byte k of the string written stands k places past the write's start. -/
theorem readByte_memWriteBytes_inside {B s : Bytes} {off k : Nat} (h : off + s.length ≤ B.length) (hk : k < s.length) :
    readByte (memWriteBytes B off s) (off + k) = readByte s k := by
  rw [← readByte_memReadBytes hk, memReadBytes_memWriteBytes h]

/-- Byte k of the n bytes of a value is its digit of weight 256 ^ (n - 1 - k). -/
theorem readByte_beBytes {n k : Nat} (v : Nat) (hk : k < n) :
    readByte (beBytes n v) k = some (BitVec.ofNat 8 (v / 256 ^ (n - 1 - k))) := by
  have hpow : (2 : Nat) ^ (8 * (n - 1 - k)) = 256 ^ (n - 1 - k) := by rw [pow_mul]; norm_num
  simp [readByte, beBytes, hk, Nat.shiftRight_eq_div_pow, hpow]

theorem memWrite_length {B : Bytes} {off n v : Nat} (h : off + n ≤ B.length) :
    (memWrite B off n v).length = B.length :=
  memWriteBytes_length (by rwa [beBytes_length])

theorem readByte_memWrite_inside {B : Bytes} {off n v k : Nat} (h : off + n ≤ B.length) (hk : k < n) :
    readByte (memWrite B off n v) (off + k) = some (BitVec.ofNat 8 (v / 256 ^ (n - 1 - k))) := by
  rw [memWrite, readByte_memWriteBytes_inside (by rwa [beBytes_length]) (by rwa [beBytes_length]), readByte_beBytes v hk]

theorem readByte_memWrite_outside {B : Bytes} {off n v k : Nat} (h : off + n ≤ B.length) (hk : k < off ∨ off + n ≤ k) :
    readByte (memWrite B off n v) k = readByte B k :=
  readByte_memWriteBytes_outside (by rwa [beBytes_length]) (by rwa [beBytes_length])

/-- The n bytes of a machine word are its 8-bit slices, from the top one down: a slice is by definition a shift cut to
its width. -/
theorem beBytes_toNat {w : Nat} (n : Nat) (v : BitVec w) :
    beBytes n v.toNat = (List.range n).map fun k => v.extractLsb' (8 * (n - 1 - k)) 8 := rfl

/-- Settles O7: each primitive by its own law, and the u32 and u16 layouts as the slices of a word. -/
theorem bufferPrimitivesAreBigEndian : Obligations.BufferPrimitivesAreBigEndian := by
  refine ⟨memRead_eq_sum, fun B off n v h _ => ⟨memWrite_length h, ?_, ?_⟩, fun B off n h => ⟨memReadBytes_length h, ?_⟩,
    fun B s off h => ⟨memWriteBytes_length h, ?_, ?_⟩, fun v => beBytes_toNat 4 v, fun v => beBytes_toNat 2 v⟩
  · exact fun k hk => readByte_memWrite_inside h hk
  · exact fun k hk => readByte_memWrite_outside h hk
  · exact fun k hk => readByte_memReadBytes hk
  · exact fun k hk => readByte_memWriteBytes_inside h hk
  · exact fun k hk => readByte_memWriteBytes_outside h hk

/-! ### The legal configurations (R7) -/

theorem tagIsAscii_iff (c : Config) : c.tagIsAscii = true ↔ ∀ b ∈ Tag.bytes c.frameTypeTag, b.toNat ≤ 0x7F := by
  simp [Config.tagIsAscii, Tag.bytes, BitVec.le_def, and_assoc]

theorem codesInRange_iff (c : Config) : c.codesInRange = true ↔
    ∀ v ∈ [c.typecodeToken, c.typecodeTrigger, c.typecodePreq, c.typecodeCyclic], 65000 ≤ v.toNat := by
  simp [Config.codesInRange, Config.codeInRange, and_assoc]

theorem dispatchUnambiguous_iff (c : Config) : c.dispatchUnambiguous = true ↔ c.typecodeTrigger ≠ c.typecodeToken :=
  bne_iff_ne

theorem preqDistinct_iff (c : Config) : c.preqDistinct = true ↔ c.typecodePreq ≠ c.typecodeTrigger := bne_iff_ne

theorem bufferHoldsFixedFrames_iff (c : Config) : c.bufferHoldsFixedFrames = true ↔ 96 ≤ c.maxBufLen :=
  decide_eq_true_iff

/-- A configuration is legal exactly when it meets each of the five constraints of R7. -/
theorem config_legal_iff (c : Config) : c.legal = true ↔
    (∀ b ∈ Tag.bytes c.frameTypeTag, b.toNat ≤ 0x7F) ∧
    (∀ v ∈ [c.typecodeToken, c.typecodeTrigger, c.typecodePreq, c.typecodeCyclic], 65000 ≤ v.toNat) ∧
    c.typecodeTrigger ≠ c.typecodeToken ∧ c.typecodePreq ≠ c.typecodeTrigger ∧ 96 ≤ c.maxBufLen := by
  rw [← tagIsAscii_iff, ← codesInRange_iff, ← dispatchUnambiguous_iff, ← preqDistinct_iff, ← bufferHoldsFixedFrames_iff]
  simp only [Config.legal, Bool.and_eq_true, and_assoc]

/-- A configuration that breaks a constraint has no step (R157). -/
theorem step_of_illegal {s : State} (h : s.config.legal = false) : step s = .refused .illegalConfiguration :=
  if_neg (by rw [h]; exact Bool.false_ne_true)

/-- Settles O54: legality constraint by constraint, and the refusing branch of step. -/
theorem illegalConfigurationIsRefused : Obligations.IllegalConfigurationIsRefused :=
  ⟨config_legal_iff, fun _ h => step_of_illegal h⟩

end Sys2Proof.Machine
end

section
/-! PROOFS of the state statements, first part: what a step can do, said once. An operation that answers a next state
commits the writes of its family, or leaves everything but STATUS (R42, R136); a step runs one entry of the host's program. -/

namespace Sys2Proof.Machine

/-! ### What a staged operation ends with -/

/-- A staged operation that reaches its end does so with `P`, and marks no error with W but the one a decode inside PARSE
can end with (R80: 0x81 is the only wrapped code that is ever written). -/
structure StagedPost {α : Type} (P : α → Prop) (x : Except Stop α) : Prop where
  ok : ∀ a, x = .ok a → P a
  wrapped : ∀ e, x = .error (.raiseWrapped e) → e = .tooShortToParse

theorem stagedPost_ok {α : Type} {P : α → Prop} {a : α} (h : P a) : StagedPost P (.ok a : Except Stop α) :=
  ⟨fun _ e => Except.ok.inj e ▸ h, nofun⟩

theorem stagedPost_raise {α : Type} {P : α → Prop} (e : ErrorCode) : StagedPost P (.error (.raise e) : Except Stop α) :=
  ⟨nofun, nofun⟩

theorem stagedPost_raiseWrapped {α : Type} {P : α → Prop} :
    StagedPost P (.error (.raiseWrapped .tooShortToParse) : Except Stop α) :=
  ⟨nofun, fun _ he => (Stop.raiseWrapped.inj (Except.error.inj he)).symm⟩

theorem StagedPost.bind {α β : Type} {P : α → Prop} {Q : β → Prop} {x : Except Stop α} {f : α → Except Stop β}
    (hx : StagedPost P x) (hf : ∀ a, P a → StagedPost Q (f a)) : StagedPost Q (x >>= f) where
  ok b hb := by
    obtain ⟨a, ha, hb⟩ := staged_bind_eq_ok.mp hb
    exact (hf a (hx.ok a ha)).ok b hb
  wrapped e he := by
    rcases staged_bind_eq_error.mp he with he | ⟨a, ha, he⟩
    · exact hx.wrapped e he
    · exact (hf a (hx.ok a ha)).wrapped e he

/-- A part of an operation that stops in no other way than by UNWRITTEN: the operation goes on with the value read. -/
theorem stagedPost_read {α : Type} {x : Except Stop α} (h : ∀ e, x = .error e → ∃ q, e = .unwritten q) :
    StagedPost (fun a => x = .ok a) x :=
  ⟨fun _ ha => ha, fun _ he => by obtain ⟨q, hq⟩ := h _ he; cases hq⟩

theorem stagedPost_readReg {α : Type} (r : Register) (v : Option α) : StagedPost (fun a => readReg r v = .ok a) (readReg r v) :=
  stagedPost_read fun _ h => ⟨r, (readReg_eq_error.mp h).2⟩

theorem stagedPost_hdrRead (s : State) : StagedPost (fun h => s.hdr.read = .ok h) s.hdr.read :=
  stagedPost_read fun _ h => by obtain ⟨q, -, -, hq⟩ := hdrRead_eq_error h; exact ⟨q, hq⟩

theorem stagedPost_cargRead (s : State) : StagedPost (fun g => s.carg.readScalars = .ok g) s.carg.readScalars :=
  stagedPost_read fun _ h => by obtain ⟨q, -, -, hq⟩ := cargRead_eq_error h; exact ⟨q, hq⟩

theorem stagedPost_nameInRead (s : State) :
    StagedPost (fun n => s.carg.nameIn.read .nameIn = .ok n) (s.carg.nameIn.read .nameIn) :=
  stagedPost_read fun _ h => by obtain ⟨q, -, -, hq⟩ := nameInRead_eq_error h; exact ⟨q, hq⟩

theorem stagedPost_nameRead (s : State) : StagedPost (fun n => s.name.read .name = .ok n) (s.name.read .name) :=
  stagedPost_read fun _ h => by obtain ⟨q, -, -, hq⟩ := nameRead_eq_error h; exact ⟨q, hq⟩

theorem stagedPost_requireKind (k : Kind) (s : State) : StagedPost (fun _ => s.kind = k) (requireKind k s) := by
  by_cases h : s.kind = k
  · rw [requireKind_pass h]; exact stagedPost_ok h
  · rw [requireKind_stop h]; exact stagedPost_raise _

theorem stagedPost_requireInput (n : Nat) (s : State) : StagedPost (fun _ => n ≤ s.inBuf.length) (requireInput n s) := by
  by_cases h : n ≤ s.inBuf.length
  · rw [requireInput_pass h]; exact stagedPost_ok h
  · rw [requireInput_stop (Nat.not_le.mp h)]; exact stagedPost_raise _

/-- The end of an operation that answers a next state: a commit with STATUS = OK, or STATUS alone set to the code of an
error, which is a listed one. -/
theorem conclude_next_cases {P : State → Prop} {s t : State} {op : Staged} (hop : StagedPost P op)
    (h : conclude s op = .next t) :
    (∃ u, P u ∧ t = u.setStatus statusOk) ∨ ∃ v ∈ listedStatus, v ≠ statusOk ∧ t = s.setStatus v := by
  rcases conclude_eq_next h with ⟨u, hu, rfl⟩ | ⟨e, -, rfl⟩ | ⟨e, he, rfl⟩
  · exact .inl ⟨u, hop.ok u hu, rfl⟩
  · exact .inr ⟨e.code, by cases e <;> decide, by cases e <;> decide, rfl⟩
  · cases hop.wrapped e he
    exact .inr ⟨_, by decide, by decide, rfl⟩

/-! ### What an operation commits (R42) -/

/-- The lengths a frame can have: the header alone, a participation frame, or the header and PAYLOAD (R92, R107, R111,
R113, R115). -/
def frameLength (s : State) (n : Nat) : Prop := n = 64 ∨ n = 96 ∨ ∃ p, s.payload = some p ∧ n = 64 + p.length

/-- What an operation can commit, by its family: the registers it writes, and of the byte strings it writes how long they
are (R42). -/
inductive Commits (i : Instr) (s : State) : State → Prop
  /-- The packing operations write HDR (R84 to R86). -/
  | packed (hi : i = .packCtl ∨ i = .packMode ∨ i = .makeAddr) (h : HdrReg) : Commits i s (s.setHdr h)
  /-- The unpacking operations write scalars of CARG (R87, R88). -/
  | unpacked (hi : i = .unpackCtl ∨ i = .unpackMode) (c : Carg)
      (hc : c.nameIn = s.carg.nameIn ∧ c.payloadIn = s.carg.payloadIn) : Commits i s (s.setCarg c)
  /-- FIT10 writes NAME (R101). -/
  | named (hi : i = .fit10) (n : Names) (hn : n.within Config.nameLen) : Commits i s (s.setName n)
  /-- An encode writes OUT_BUF, allocated with the frame's length or written in place, and OUT_LEN (R91). -/
  | encoded (hi : isEncode i = true) (b : Bytes) (n : Nat) (hb : b.length = n ∨ b.length = s.outBuf.length)
      (hn : frameLength s n) : Commits i s (s.setOutput b n)
  /-- A constructor, a decode or PARSE writes the variant register as a whole, the payload from PAYLOAD_IN or from IN_BUF
  (R38). -/
  | variant (hi : writesVariant i = true) (h : Header) (k : Kind) (n : Names) (p : Option Bytes) (hown : ownsBody k n p)
      (hn : n.within Config.nameLen) (hp : p = none ∨ p = s.carg.payloadIn ∨ p = some (s.inBuf.drop Config.hdrLen)) :
      Commits i s (s.setVariant h k n p)

@[simp] theorem withinBound_none (n : Nat) : withinBound n none := nofun

@[simp] theorem withinBound_some {n : Nat} {b : Bytes} : withinBound n (some b) ↔ b.length ≤ n := by
  simp [withinBound]

theorem withinBound.mono {m n : Nat} {v : Option Bytes} (hv : withinBound m v) (hmn : m ≤ n) : withinBound n v :=
  fun b hb => (hv b hb).trans hmn

theorem Names.within.mono {m n : Nat} {x : Names} (hx : x.within m) (hmn : m ≤ n) : x.within n := by
  obtain ⟨hnode, hvendor, hmanufacturer⟩ := hx
  exact ⟨hnode.mono hmn, hvendor.mono hmn, hmanufacturer.mono hmn⟩

@[simp] theorem names_unwritten_within (n : Nat) : Names.unwritten.within n :=
  ⟨withinBound_none n, withinBound_none n, withinBound_none n⟩

@[simp] theorem names_ofStrings_within {n : Nat} {a b c : Bytes} :
    (Names.ofStrings a b c).within n ↔ a.length ≤ n ∧ b.length ≤ n ∧ c.length ≤ n := by
  simp [Names.within, Names.ofStrings]

theorem fittedNames_within (n : Bytes × Bytes × Bytes) : (fittedNames n).within Config.nameLen := by
  simp [fittedNames]

theorem partNames_within (B : Bytes) : (partNames B).within Config.nameLen := by
  simp [partNames, memReadBytes]

/-- The variant that owns no body register: NONE and Token commit ⊥ in NAME and PAYLOAD (R33). -/
theorem Commits.bare {i : Instr} {s : State} (hi : writesVariant i = true) (h : Header) {k : Kind}
    (hown : ownsBody k Names.unwritten none) : Commits i s (s.setVariant h k Names.unwritten none) :=
  .variant hi h k _ _ hown (names_unwritten_within _) (.inl rfl)

/-- The two participation variants own NAME and not PAYLOAD (R33). -/
theorem ownsBody_participation {k : Kind} (hk : k = .trigger ∨ k = .preq) (a b c : Bytes) :
    ownsBody k (Names.ofStrings a b c) none := by
  rcases hk with rfl | rfl <;> exact ⟨⟨a, b, c, rfl⟩, rfl⟩

/-- The output step of an encode commits OUT_BUF and OUT_LEN (R91). -/
theorem stagedPost_emit {i : Instr} {s : State} (hi : isEncode i = true) (a : Bool) {f : Bytes}
    (hf : frameLength s f.length) : StagedPost (Commits i s) (emit a f s) where
  ok t ht := by
    rcases emit_eq_ok ht with ⟨-, rfl⟩ | ⟨-, hl, rfl⟩
    · exact .encoded hi f f.length (.inl rfl) hf
    · exact .encoded hi _ _ (.inr (by simp only [List.length_append, List.length_drop]; omega)) hf
  wrapped e he := by
    obtain ⟨-, -, hraise⟩ := emit_eq_error he
    cases hraise

theorem stagedPost_mkParticipation {i : Instr} (hi : writesVariant i = true) (tcd : BitVec 16) {k : Kind}
    (hk : k = .trigger ∨ k = .preq) (s : State) : StagedPost (Commits i s) (mkParticipation tcd k s) :=
  (stagedPost_cargRead s).bind fun _ _ => (stagedPost_nameInRead s).bind fun n _ =>
    stagedPost_ok (.variant hi _ k _ none (ownsBody_participation hk _ _ _) (fittedNames_within n) (.inl rfl))

theorem stagedPost_participationEnc {i : Instr} (hi : isEncode i = true) (k : Kind) (a : Bool) (s : State) :
    StagedPost (Commits i s) (participationEnc k a s) :=
  (stagedPost_requireKind k s).bind fun _ _ => (stagedPost_hdrRead s).bind fun h _ =>
    (stagedPost_nameRead s).bind fun n _ => stagedPost_emit hi a (.inr (.inl (partBytes_length h n)))

theorem stagedPost_participationDec {i : Instr} (hi : writesVariant i = true) {k : Kind} (hk : k = .trigger ∨ k = .preq)
    (s : State) : StagedPost (Commits i s) (participationDec k s) :=
  (stagedPost_requireInput _ s).bind fun _ _ =>
    stagedPost_ok (.variant hi _ k _ none (ownsBody_participation hk _ _ _) (partNames_within s.inBuf) (.inl rfl))

theorem stagedPost_tokenDecBody {i : Instr} (hi : writesVariant i = true) (s : State) :
    StagedPost (Commits i s) (tokenDecBody s) :=
  (stagedPost_requireInput _ s).bind fun _ _ => stagedPost_ok (.bare hi _ ⟨rfl, rfl⟩)

/-- The one error of a decode is a short buffer (R139): behind its length check, it goes to its end. -/
theorem requireInput_bind_eq_raise {n : Nat} {s : State} {f : Unit → State} {e : ErrorCode}
    (h : (requireInput n s >>= fun x => pure (f x)) = (.error (.raise e) : Staged)) : e = .tooShortToParse := by
  by_cases hn : n ≤ s.inBuf.length
  · rw [requireInput_pass hn] at h; cases h
  · rw [requireInput_stop (Nat.not_le.mp hn)] at h; cases h; rfl

/-- PARSE marks the error of the selected decode (R129). -/
theorem stagedPost_wrapFailure {P : State → Prop} {op : Staged} (hop : StagedPost P op)
    (hraise : ∀ e, op = .error (.raise e) → e = .tooShortToParse) : StagedPost P (wrapFailure op) := by
  rcases op with (e | e | r) | u
  · rw [wrapFailure_raise, hraise e rfl]
    exact stagedPost_raiseWrapped
  all_goals exact hop

/-- Every operation commits what its family may, or stops. -/
theorem exec_stagedPost (i : Instr) (s : State) : ∃ op, exec i s = conclude s op ∧ StagedPost (Commits i s) op := by
  cases i with
  | packCtl | makeAddr =>
    exact ⟨_, rfl, (stagedPost_readReg _ _).bind fun _ _ => (stagedPost_readReg _ _).bind fun _ _ =>
      stagedPost_ok (.packed (by simp) _)⟩
  | packMode =>
    exact ⟨_, rfl, (stagedPost_readReg _ _).bind fun _ _ => (stagedPost_readReg _ _).bind fun _ _ =>
      (stagedPost_readReg _ _).bind fun _ _ => stagedPost_ok (.packed (by simp) _)⟩
  | unpackCtl | unpackMode =>
    exact ⟨_, rfl, (stagedPost_readReg _ _).bind fun _ _ => stagedPost_ok (.unpacked (by simp) _ ⟨rfl, rfl⟩)⟩
  | hdrEnc a =>
    exact ⟨_, rfl, (stagedPost_hdrRead s).bind fun h _ => stagedPost_emit rfl a (.inl (hdrBytes_length h))⟩
  | hdrDec => exact ⟨_, rfl, (stagedPost_requireInput _ s).bind fun _ _ => stagedPost_ok (.bare rfl _ ⟨rfl, rfl⟩)⟩
  | fit10 =>
    exact ⟨_, rfl, (stagedPost_nameInRead s).bind fun n _ => stagedPost_ok (.named rfl _ (fittedNames_within n))⟩
  | mkToken => exact ⟨_, rfl, (stagedPost_cargRead s).bind fun _ _ => stagedPost_ok (.bare rfl _ ⟨rfl, rfl⟩)⟩
  | mkTrig => exact ⟨_, rfl, stagedPost_mkParticipation rfl _ (.inl rfl) s⟩
  | mkPreq => exact ⟨_, rfl, stagedPost_mkParticipation rfl _ (.inr rfl) s⟩
  | mkCyc =>
    refine ⟨_, rfl, (stagedPost_cargRead s).bind fun _ _ => (stagedPost_readReg _ _).bind fun p hp => ?_⟩
    split
    · exact stagedPost_raise _
    · exact stagedPost_ok (.variant rfl _ _ _ _ ⟨rfl, p, rfl⟩ (names_unwritten_within _)
        (.inr (.inl (readReg_eq_ok.mp hp).symm)))
  | tokenEnc a =>
    exact ⟨_, rfl, (stagedPost_requireKind _ s).bind fun _ _ => (stagedPost_hdrRead s).bind fun h _ =>
      stagedPost_emit rfl a (.inl (hdrBytes_length h))⟩
  | tokenDec => exact ⟨_, rfl, stagedPost_tokenDecBody rfl s⟩
  | trigEnc a => exact ⟨_, rfl, stagedPost_participationEnc rfl _ a s⟩
  | preqEnc a => exact ⟨_, rfl, stagedPost_participationEnc rfl _ a s⟩
  | trigDec => exact ⟨_, rfl, stagedPost_participationDec rfl (.inl rfl) s⟩
  | preqDec => exact ⟨_, rfl, stagedPost_participationDec rfl (.inr rfl) s⟩
  | cycEnc a =>
    exact ⟨_, rfl, (stagedPost_requireKind _ s).bind fun _ _ => (stagedPost_hdrRead s).bind fun _ _ =>
      (stagedPost_readReg _ _).bind fun p hp =>
        stagedPost_emit rfl a (.inr (.inr ⟨p, readReg_eq_ok.mp hp, by simp⟩))⟩
  | cycDec =>
    exact ⟨_, rfl, (stagedPost_requireInput _ s).bind fun _ _ => stagedPost_ok
      (.variant rfl _ _ _ _ ⟨rfl, _, rfl⟩ (names_unwritten_within _) (.inr (.inr rfl)))⟩
  | parse =>
    refine ⟨_, rfl, (stagedPost_requireInput _ s).bind fun _ _ => ?_⟩
    split
    · exact stagedPost_wrapFailure (stagedPost_tokenDecBody rfl s) fun _ => requireInput_bind_eq_raise
    · split
      · exact stagedPost_wrapFailure (stagedPost_participationDec rfl (.inl rfl) s) fun _ => requireInput_bind_eq_raise
      · exact stagedPost_raise _

/-- Everything an operation can do when it answers a next state. -/
theorem exec_next_cases {i : Instr} {s t : State} (h : exec i s = .next t) :
    (∃ u, Commits i s u ∧ t = u.setStatus statusOk) ∨ ∃ v ∈ listedStatus, v ≠ statusOk ∧ t = s.setStatus v := by
  obtain ⟨op, hop, hpost⟩ := exec_stagedPost i s
  exact conclude_next_cases hpost (hop ▸ h)

/-! ### What a step can do -/

/-- Under a legal configuration a step runs the next entry of the host's program and drops it (R17). -/
theorem step_of_cons {s : State} {e : HostEntry} {rest : List HostEntry} (hc : s.config.legal = true)
    (hh : s.host = e :: rest) : step s = runEntry e (s.setHost rest) := by
  simp only [step, hc, if_true, runNextEntry, hh]

/-- Everything an entry of the host's program can do when it answers a next state. LOOPBACK is a host write of IN_BUF. -/
theorem runEntry_next_cases {e : HostEntry} {s t : State} (h : runEntry e s = .next t) :
    t = s ∨ (∃ w i, exec i (s.setCmd w) = .next t) ∨
      (∃ w, t = (s.setCmd w).setStatus ErrorCode.illegalCommand.code) ∨
      (∃ a : HostWrite, a.overfills s.config = none ∧ t = a.apply s) ∨
      t = (State.resetWith s.config).setHost s.host := by
  cases e with
  | command w =>
    rcases issueCommand_cases w s with ⟨i, -, hi⟩ | ⟨-, -, hi⟩
    · exact .inr (.inl ⟨w, i, hi ▸ h⟩)
    · exact .inr (.inr (.inl ⟨w, (Host.Outcome.next.inj (hi.symm.trans h)).symm⟩))
  | write a => exact .inr (.inr (.inr (.inl ⟨a, hostWrite_eq_next h⟩)))
  | check r v => exact .inl (Host.Outcome.next.inj h).symm
  | loopback =>
    obtain ⟨-, hfits, ht⟩ := hostLoopback_eq_next h
    exact .inr (.inr (.inr (.inl ⟨_, hfits, ht⟩)))
  | reset => exact .inr (.inr (.inr (.inr (Host.Outcome.next.inj h).symm)))

/-- A step that answers a next state has a legal configuration, and holds the state or runs an entry. -/
theorem step_next_cases {s t : State} (h : step s = .next t) :
    s.config.legal = true ∧ (t = s ∨ ∃ e rest, runEntry e (s.setHost rest) = .next t) := by
  cases hc : s.config.legal with
  | false => rw [step_of_illegal hc] at h; cases h
  | true =>
    refine ⟨rfl, ?_⟩
    cases hh : s.host with
    | nil =>
      simp only [step, hc, if_true, runNextEntry, hh] at h
      exact .inl (Host.Outcome.next.inj h).symm
    | cons e rest => exact .inr ⟨e, rest, step_of_cons hc hh ▸ h⟩

end Sys2Proof.Machine
end

section
/-! PROOFS of the state statements, second part: the invariant (O56, O57), the frames of the operations (O42, O43, O46), the
host's accesses and reset (O48, O49, O51, O52, O55). -/

namespace Sys2Proof.Machine

/-! ### The invariant (R20, R21, R29, R30, R32, R80) -/

theorem inv_setHost {s : State} (hs : s.Inv) (p : List HostEntry) : (s.setHost p).Inv := { hs with }

theorem inv_setCmd {s : State} (hs : s.Inv) (w : CommandWord) : (s.setCmd w).Inv := { hs with }

theorem inv_setStatus {s : State} (hs : s.Inv) {v : BitVec 8} (hv : v ∈ listedStatus) : (s.setStatus v).Inv :=
  { hs with status := hv }

/-- A write of CARG that leaves its strings alone keeps the invariant: the scalars have no bound but their width. -/
theorem inv_setCarg {s : State} (hs : s.Inv) {c : Carg}
    (hc : c.nameIn = s.carg.nameIn ∧ c.payloadIn = s.carg.payloadIn) : (s.setCarg c).Inv := by
  obtain ⟨hname, hpayload⟩ := hc
  exact { hs with nameIn := hname ▸ hs.nameIn, payloadIn := hpayload ▸ hs.payloadIn }

/-- Settles O56: every string is empty or ⊥, and STATUS is OK. -/
theorem resetMeetsInvariant : Obligations.ResetMeetsInvariant := fun _ =>
  { inBuf := Nat.zero_le _
    outBuf := Nat.zero_le _
    outLen := Nat.zero_le _
    name := names_unwritten_within _
    payload := withinBound_none _
    nameIn := names_unwritten_within _
    payloadIn := withinBound_none _
    status := List.mem_cons_self }

/-- A legal configuration's buffers hold every fixed frame: MAX_BUF_LEN is at least 96 (R7). -/
theorem maxBufLen_of_legal {c : Config} (hc : c.legal = true) : 96 ≤ c.maxBufLen := by
  obtain ⟨-, -, -, -, hlen⟩ := (config_legal_iff c).mp hc
  exact hlen

/-- Every frame fits MAX_BUF_LEN: that is what the bound of PAYLOAD is for (R30). -/
theorem frameLength_le {s : State} (hs : s.Inv) (hc : s.config.legal = true) {n : Nat} (hn : frameLength s n) :
    n ≤ s.config.maxBufLen := by
  have hmax := maxBufLen_of_legal hc
  rcases hn with rfl | rfl | ⟨p, hp, rfl⟩
  · omega
  · exact hmax
  · have hle := hs.payload p hp
    simp only [payloadBound, Config.hdrLen] at hle
    omega

/-- What an operation commits keeps the invariant. -/
theorem Commits.inv {i : Instr} {s u : State} (hu : Commits i s u) (hs : s.Inv) (hc : s.config.legal = true) : u.Inv := by
  have hname : Config.nameLen ≤ s.config.maxBufLen := le_trans (by decide) (maxBufLen_of_legal hc)
  cases hu with
  | packed hi h => exact { hs with }
  | unpacked hi c hc => exact inv_setCarg hs hc
  | named hi n hn => exact { hs with name := hn.mono hname }
  | encoded hi b n hb hn =>
    have hn := frameLength_le hs hc hn
    exact { hs with outBuf := hb.elim (fun h => h ▸ hn) (fun h => h ▸ hs.outBuf), outLen := hn }
  | variant hi h k n p hown hn hp =>
    have hpayload : withinBound (payloadBound s.config) p := by
      rcases hp with rfl | rfl | rfl
      · exact withinBound_none _
      · exact hs.payloadIn
      · rw [withinBound_some, List.length_drop]
        exact Nat.sub_le_sub_right hs.inBuf _
    exact { hs with name := hn.mono hname, payload := hpayload }

theorem exec_inv {i : Instr} {s t : State} (hs : s.Inv) (hc : s.config.legal = true) (h : exec i s = .next t) : t.Inv := by
  rcases exec_next_cases h with ⟨u, hu, rfl⟩ | ⟨v, hv, -, rfl⟩
  · exact inv_setStatus (hu.inv hs hc) (by decide)
  · exact inv_setStatus hs hv

theorem names_set_within {n : Nat} {x : Names} (hx : x.within n) (i : NameIndex) {b : Bytes} (hb : b.length ≤ n) :
    (x.set i b).within n := by
  obtain ⟨hnode, hvendor, hmanufacturer⟩ := hx
  cases i with
  | node => exact ⟨withinBound_some.mpr hb, hvendor, hmanufacturer⟩
  | vendor => exact ⟨hnode, withinBound_some.mpr hb, hmanufacturer⟩
  | manufacturer => exact ⟨hnode, hvendor, withinBound_some.mpr hb⟩

/-- A host write is possible for a string exactly within its register's bound. -/
theorem le_of_overfills_none {m n : Nat} {r : Register} (h : (if m < n then some r else none) = none) : n ≤ m := by
  by_contra hlt
  rw [if_pos (Nat.not_le.mp hlt)] at h
  cases h

theorem carg_set32_strings (c : Carg) (f : Carg32) (v : BitVec 32) :
    (c.set32 f v).nameIn = c.nameIn ∧ (c.set32 f v).payloadIn = c.payloadIn := by
  cases f <;> exact ⟨rfl, rfl⟩

theorem carg_set16_strings (c : Carg) (f : Carg16) (v : BitVec 16) :
    (c.set16 f v).nameIn = c.nameIn ∧ (c.set16 f v).payloadIn = c.payloadIn := by
  cases f <;> exact ⟨rfl, rfl⟩

theorem carg_set8_strings (c : Carg) (f : Carg8) (v : BitVec 8) :
    (c.set8 f v).nameIn = c.nameIn ∧ (c.set8 f v).payloadIn = c.payloadIn := by
  cases f <;> exact ⟨rfl, rfl⟩

theorem carg_set1_strings (c : Carg) (f : Carg1) (v : BitVec 1) :
    (c.set1 f v).nameIn = c.nameIn ∧ (c.set1 f v).payloadIn = c.payloadIn := by
  cases f <;> exact ⟨rfl, rfl⟩

/-- A host write that its register can hold keeps the invariant. -/
theorem hostWrite_inv {a : HostWrite} {s : State} (hs : s.Inv) (ha : a.overfills s.config = none) : (a.apply s).Inv := by
  cases a with
  | inBuf b => exact { hs with inBuf := le_of_overfills_none ha }
  | outBuf b => exact { hs with outBuf := le_of_overfills_none ha }
  | name i b => exact { hs with name := names_set_within hs.name i (le_of_overfills_none ha) }
  | payload b => exact { hs with payload := withinBound_some.mpr (le_of_overfills_none ha) }
  | nameIn i b => exact { hs with nameIn := names_set_within hs.nameIn i (le_of_overfills_none ha) }
  | payloadIn b => exact { hs with payloadIn := withinBound_some.mpr (le_of_overfills_none ha) }
  | hdrFtt v | hdr32 f v | hdr16 f v | hdr8 f v => exact { hs with }
  | cargMajor v => exact inv_setCarg hs ⟨rfl, rfl⟩
  | carg32 f v => exact inv_setCarg hs (carg_set32_strings _ f v)
  | carg16 f v => exact inv_setCarg hs (carg_set16_strings _ f v)
  | carg8 f v => exact inv_setCarg hs (carg_set8_strings _ f v)
  | carg1 f v => exact inv_setCarg hs (carg_set1_strings _ f v)

theorem runEntry_inv {e : HostEntry} {s t : State} (hs : s.Inv) (hc : s.config.legal = true) (h : runEntry e s = .next t) :
    t.Inv := by
  rcases runEntry_next_cases h with rfl | ⟨w, i, hi⟩ | ⟨w, rfl⟩ | ⟨a, ha, rfl⟩ | rfl
  · exact hs
  · exact exec_inv (inv_setCmd hs w) hc hi
  · exact inv_setStatus (inv_setCmd hs w) (by decide)
  · exact hostWrite_inv hs ha
  · exact inv_setHost (resetMeetsInvariant s.config) s.host

/-- Settles O57: a step holds the state or runs an entry, and each entry keeps the invariant. -/
theorem stepKeepsInvariant : Obligations.StepKeepsInvariant := by
  intro s t hs h
  obtain ⟨hc, rfl | ⟨e, rest, he⟩⟩ := step_next_cases h
  · exact hs
  · exact runEntry_inv (inv_setHost hs rest) hc he

/-! ### What an operation reads and leaves unchanged (R19, R33, R42) -/

/-- Settles O43: the frame of each family's commit; an error changes STATUS alone. -/
theorem operationsWriteOnlyTheirRegisters : Obligations.OperationsWriteOnlyTheirRegisters := by
  intro i s t h
  rcases exec_next_cases h with ⟨u, hu, rfl⟩ | ⟨v, -, -, rfl⟩
  · cases hu with
    | packed hi h => rcases hi with rfl | rfl | rfl <;> simp
    | unpacked hi c hc => rcases hi with rfl | rfl <;> simp
    | named hi n hn => simp [hi]
    | encoded hi b n hb hn => simp [hi]
    | variant hi h k n p hown hn hp => simp [hi]
  · simp

/-- No encode writes the variant register (R42). -/
theorem writesVariant_of_isEncode {i : Instr} (hi : isEncode i = true) : writesVariant i = false := by
  cases i with
  | hdrEnc | tokenEnc | trigEnc | preqEnc | cycEnc => rfl
  | _ => cases hi

/-- A constructor, a decode or PARSE commits a variant register that owns its body, and nothing else (R33, R38). -/
theorem Commits.eq_setVariant {i : Instr} {s u : State} (hu : Commits i s u) (hw : writesVariant i = true) :
    ∃ h k n p, u = s.setVariant h k n p ∧ ownsBody k n p := by
  cases hu with
  | variant _ h k n p hown _ _ => exact ⟨h, k, n, p, rfl, hown⟩
  | packed hi _ => rcases hi with rfl | rfl | rfl <;> cases hw
  | unpacked hi _ _ => rcases hi with rfl | rfl <;> cases hw
  | named hi _ _ => subst hi; cases hw
  | encoded hi _ _ _ _ => rw [writesVariant_of_isEncode hi] at hw; cases hw

/-- Settles O46: what is committed owns its body, and STATUS tells that it was committed. -/
theorem variantOwnsItsBody : Obligations.VariantOwnsItsBody := by
  intro i s t hi h hstatus
  rcases exec_next_cases h with ⟨u, hu, rfl⟩ | ⟨v, -, hv, rfl⟩
  · obtain ⟨h, k, n, p, rfl, hown⟩ := hu.eq_setVariant hi
    exact hown
  · exact absurd hstatus hv

/-- STATUS is overwritten at the end of every operation, so its value before is lost (R136). -/
theorem conclude_setStatus (s : State) (v : BitVec 8) (op : Staged) :
    conclude (s.setStatus v) (op.map (·.setStatus v)) = conclude s op := by
  rcases op with (e | e | r) | u <;> rfl

/-- Two operations that begin alike differ in STATUS alone if what follows does. -/
theorem bind_eq_map_setStatus {α : Type} {x : Except Stop α} {f g : α → Staged} {v : BitVec 8}
    (h : ∀ a, g a = (f a).map (·.setStatus v)) : (x >>= g) = (x >>= f).map (·.setStatus v) := by
  cases x with
  | error e => rfl
  | ok a => exact h a

theorem emit_setStatus (a : Bool) (f : Bytes) (s : State) (v : BitVec 8) :
    emit a f (s.setStatus v) = (emit a f s).map (·.setStatus v) := by
  cases a with
  | true => rfl
  | false =>
    by_cases hl : s.outBuf.length < f.length
    · rw [emit_inPlace_short hl, emit_inPlace_short (by exact hl)]; rfl
    · rw [emit_inPlace_fits (Nat.not_lt.mp hl), emit_inPlace_fits (by exact Nat.not_lt.mp hl)]; rfl

theorem wrapFailure_map_setStatus (op : Staged) (v : BitVec 8) :
    wrapFailure (op.map (·.setStatus v)) = (wrapFailure op).map (·.setStatus v) := by
  rcases op with (e | e | r) | u <;> rfl

theorem mkParticipation_setStatus (tcd : BitVec 16) (k : Kind) (s : State) (v : BitVec 8) :
    mkParticipation tcd k (s.setStatus v) = (mkParticipation tcd k s).map (·.setStatus v) :=
  bind_eq_map_setStatus fun _ => bind_eq_map_setStatus fun _ => rfl

theorem participationEnc_setStatus (k : Kind) (a : Bool) (s : State) (v : BitVec 8) :
    participationEnc k a (s.setStatus v) = (participationEnc k a s).map (·.setStatus v) :=
  bind_eq_map_setStatus fun _ => bind_eq_map_setStatus fun _ => bind_eq_map_setStatus fun _ => emit_setStatus a _ s v

theorem participationDec_setStatus (k : Kind) (s : State) (v : BitVec 8) :
    participationDec k (s.setStatus v) = (participationDec k s).map (·.setStatus v) :=
  bind_eq_map_setStatus fun _ => rfl

theorem tokenDecBody_setStatus (s : State) (v : BitVec 8) :
    tokenDecBody (s.setStatus v) = (tokenDecBody s).map (·.setStatus v) :=
  bind_eq_map_setStatus fun _ => rfl

/-- Run from a state with another STATUS, an operation stages the same writes and stops in the same way. -/
theorem exec_staged_setStatus (i : Instr) (s : State) (v : BitVec 8) :
    ∃ op, exec i s = conclude s op ∧ exec i (s.setStatus v) = conclude (s.setStatus v) (op.map (·.setStatus v)) := by
  cases i with
  | packCtl | makeAddr =>
    exact ⟨_, rfl, congrArg (conclude _) (bind_eq_map_setStatus fun _ => bind_eq_map_setStatus fun _ => rfl)⟩
  | packMode =>
    exact ⟨_, rfl, congrArg (conclude _)
      (bind_eq_map_setStatus fun _ => bind_eq_map_setStatus fun _ => bind_eq_map_setStatus fun _ => rfl)⟩
  | unpackCtl | unpackMode | hdrDec | fit10 | mkToken | cycDec =>
    exact ⟨_, rfl, congrArg (conclude _) (bind_eq_map_setStatus fun _ => rfl)⟩
  | hdrEnc a => exact ⟨_, rfl, congrArg (conclude _) (bind_eq_map_setStatus fun _ => emit_setStatus a _ s v)⟩
  | mkTrig | mkPreq => exact ⟨_, rfl, congrArg (conclude _) (mkParticipation_setStatus _ _ s v)⟩
  | mkCyc =>
    refine ⟨_, rfl, congrArg (conclude _) (bind_eq_map_setStatus fun _ => bind_eq_map_setStatus fun p => ?_)⟩
    split <;> rfl
  | tokenEnc a =>
    exact ⟨_, rfl, congrArg (conclude _)
      (bind_eq_map_setStatus fun _ => bind_eq_map_setStatus fun _ => emit_setStatus a _ s v)⟩
  | trigEnc a | preqEnc a => exact ⟨_, rfl, congrArg (conclude _) (participationEnc_setStatus _ a s v)⟩
  | tokenDec => exact ⟨_, rfl, congrArg (conclude _) (tokenDecBody_setStatus s v)⟩
  | trigDec | preqDec => exact ⟨_, rfl, congrArg (conclude _) (participationDec_setStatus _ s v)⟩
  | cycEnc a =>
    exact ⟨_, rfl, congrArg (conclude _) (bind_eq_map_setStatus fun _ => bind_eq_map_setStatus fun _ =>
      bind_eq_map_setStatus fun _ => emit_setStatus a _ s v)⟩
  | parse =>
    refine ⟨_, rfl, congrArg (conclude _) (bind_eq_map_setStatus fun _ => ?_)⟩
    rw [tokenDecBody_setStatus, participationDec_setStatus, wrapFailure_map_setStatus, wrapFailure_map_setStatus,
      State.setStatus_inBuf, State.setStatus_config]
    split
    · rfl
    · split <;> rfl

/-- Settles O42: the writes staged are the same, and the end overwrites STATUS. -/
theorem statusIsNeverRead : Obligations.StatusIsNeverRead := by
  intro i s v
  obtain ⟨op, hop, hop'⟩ := exec_staged_setStatus i s v
  calc exec i (s.setStatus v) = conclude (s.setStatus v) (op.map (·.setStatus v)) := hop'
    _ = conclude s op := conclude_setStatus s v op
    _ = exec i s := hop.symm

/-! ### The host's writes (R34, R79) -/

theorem hdr_get32_set32 (h : HdrReg) (f g : Hdr32) (v : BitVec 32) :
    (h.set32 f v).get32 g = if g = f then some v else h.get32 g := by
  cases f <;> cases g <;> rfl

theorem hdr_get16_set16 (h : HdrReg) (f g : Hdr16) (v : BitVec 16) :
    (h.set16 f v).get16 g = if g = f then some v else h.get16 g := by
  cases f <;> cases g <;> rfl

theorem hdr_get8_set8 (h : HdrReg) (f g : Hdr8) (v : BitVec 8) :
    (h.set8 f v).get8 g = if g = f then some v else h.get8 g := by
  cases f <;> cases g <;> rfl

theorem carg_get32_set32 (c : Carg) (f g : Carg32) (v : BitVec 32) :
    (c.set32 f v).get32 g = if g = f then some v else c.get32 g := by
  cases f <;> cases g <;> rfl

theorem carg_get16_set16 (c : Carg) (f g : Carg16) (v : BitVec 16) :
    (c.set16 f v).get16 g = if g = f then some v else c.get16 g := by
  cases f <;> cases g <;> rfl

theorem carg_get8_set8 (c : Carg) (f g : Carg8) (v : BitVec 8) :
    (c.set8 f v).get8 g = if g = f then some v else c.get8 g := by
  cases f <;> cases g <;> rfl

theorem carg_get1_set1 (c : Carg) (f g : Carg1) (v : BitVec 1) :
    (c.set1 f v).get1 g = if g = f then some v else c.get1 g := by
  cases f <;> cases g <;> rfl

theorem names_get_set (n : Names) (i j : NameIndex) (b : Bytes) :
    (n.set i b).get j = if j = i then some b else n.get j := by
  cases i <;> cases j <;> rfl

/-! What a named update leaves unchanged, as the host reads it: one frame lemma per update. -/

theorem readRegister_setInBuf (s : State) (b : Bytes) {r : Register} (hr : r ≠ .inBuf) (hlen : r ≠ .inLen) :
    (s.setInBuf b).readRegister r = s.readRegister r := by
  cases r with
  | inBuf => exact absurd rfl hr
  | inLen => exact absurd rfl hlen
  | hdr g | carg g => cases g <;> rfl
  | _ => rfl

theorem readRegister_setOutBuf (s : State) (b : Bytes) {r : Register} (hr : r ≠ .outBuf) (hcap : r ≠ .outCap) :
    (s.setOutBuf b).readRegister r = s.readRegister r := by
  cases r with
  | outBuf => exact absurd rfl hr
  | outCap => exact absurd rfl hcap
  | hdr g | carg g => cases g <;> rfl
  | _ => rfl

theorem readRegister_setName (s : State) (i : NameIndex) (b : Bytes) {r : Register} (hr : r ≠ .name i) :
    (s.setName (s.name.set i b)).readRegister r = s.readRegister r := by
  cases r with
  | name j =>
    have hj : j ≠ i := ne_of_apply_ne Register.name hr
    exact congrArg (Option.map RegValue.string) ((names_get_set s.name i j b).trans (if_neg hj))
  | hdr g | carg g => cases g <;> rfl
  | _ => rfl

theorem readRegister_setPayload (s : State) (p : Option Bytes) {r : Register} (hr : r ≠ .payload) :
    (s.setPayload p).readRegister r = s.readRegister r := by
  cases r with
  | payload => exact absurd rfl hr
  | hdr g | carg g => cases g <;> rfl
  | _ => rfl

/-- A write of HDR that leaves every field but f alone leaves every register but that field alone. -/
theorem readRegister_setHdr {s : State} {h : HdrReg} {f : HdrField}
    (hf : ∀ g, g ≠ f → (s.setHdr h).readRegister (.hdr g) = s.readRegister (.hdr g)) {r : Register} (hr : r ≠ .hdr f) :
    (s.setHdr h).readRegister r = s.readRegister r := by
  cases r with
  | hdr g => exact hf g (ne_of_apply_ne Register.hdr hr)
  | carg g => cases g <;> rfl
  | _ => rfl

theorem readRegister_hdr_setFtt (s : State) (v : Tag) {g : HdrField} (hg : g ≠ .ftt) :
    (s.setHdr { s.hdr with ftt := some v }).readRegister (.hdr g) = s.readRegister (.hdr g) := by
  cases g with
  | ftt => exact absurd rfl hg
  | _ => rfl

theorem readRegister_hdr_set32 (s : State) (f : Hdr32) (v : BitVec 32) {g : HdrField} (hg : g ≠ .w32 f) :
    (s.setHdr (s.hdr.set32 f v)).readRegister (.hdr g) = s.readRegister (.hdr g) := by
  cases g with
  | w32 g => simp [State.readRegister, hdr_get32_set32, ne_of_apply_ne HdrField.w32 hg]
  | _ => cases f <;> rfl

theorem readRegister_hdr_set16 (s : State) (f : Hdr16) (v : BitVec 16) {g : HdrField} (hg : g ≠ .w16 f) :
    (s.setHdr (s.hdr.set16 f v)).readRegister (.hdr g) = s.readRegister (.hdr g) := by
  cases g with
  | w16 g => simp [State.readRegister, hdr_get16_set16, ne_of_apply_ne HdrField.w16 hg]
  | _ => cases f <;> rfl

theorem readRegister_hdr_set8 (s : State) (f : Hdr8) (v : BitVec 8) {g : HdrField} (hg : g ≠ .w8 f) :
    (s.setHdr (s.hdr.set8 f v)).readRegister (.hdr g) = s.readRegister (.hdr g) := by
  cases g with
  | w8 g => simp [State.readRegister, hdr_get8_set8, ne_of_apply_ne HdrField.w8 hg]
  | _ => cases f <;> rfl

/-- A write of CARG's strings alone leaves every other register alone. -/
theorem readRegister_setCarg_strings {s : State} {n : Names} {p : Option Bytes} {r : Register}
    (hn : ∀ i, r = .nameIn i → n.get i = s.carg.nameIn.get i) (hp : r = .payloadIn → p = s.carg.payloadIn) :
    (s.setCarg { s.carg with nameIn := n, payloadIn := p }).readRegister r = s.readRegister r := by
  cases r with
  | hdr g | carg g => cases g <;> rfl
  | nameIn i => exact congrArg (Option.map RegValue.string) (hn i rfl)
  | payloadIn => exact congrArg (Option.map RegValue.string) (hp rfl)
  | _ => rfl

/-- A write of CARG that leaves the strings and every scalar but f alone leaves every register but that scalar alone. -/
theorem readRegister_setCarg {s : State} {c : Carg} {f : CargField}
    (hc : c.nameIn = s.carg.nameIn ∧ c.payloadIn = s.carg.payloadIn)
    (hf : ∀ g, g ≠ f → (s.setCarg c).readRegister (.carg g) = s.readRegister (.carg g)) {r : Register}
    (hr : r ≠ .carg f) : (s.setCarg c).readRegister r = s.readRegister r := by
  obtain ⟨hname, hpayload⟩ := hc
  cases r with
  | hdr g => cases g <;> rfl
  | carg g => exact hf g (ne_of_apply_ne Register.carg hr)
  | nameIn i => simp only [State.readRegister, State.setCarg_carg, hname]
  | payloadIn => simp only [State.readRegister, State.setCarg_carg, hpayload]
  | _ => rfl

theorem readRegister_carg_set32 (s : State) (f : Carg32) (v : BitVec 32) {g : CargField} (hg : g ≠ .w32 f) :
    (s.setCarg (s.carg.set32 f v)).readRegister (.carg g) = s.readRegister (.carg g) := by
  cases g with
  | w32 g => simp [State.readRegister, carg_get32_set32, ne_of_apply_ne CargField.w32 hg]
  | _ => cases f <;> rfl

theorem readRegister_carg_set16 (s : State) (f : Carg16) (v : BitVec 16) {g : CargField} (hg : g ≠ .w16 f) :
    (s.setCarg (s.carg.set16 f v)).readRegister (.carg g) = s.readRegister (.carg g) := by
  cases g with
  | w16 g => simp [State.readRegister, carg_get16_set16, ne_of_apply_ne CargField.w16 hg]
  | _ => cases f <;> rfl

theorem readRegister_carg_set8 (s : State) (f : Carg8) (v : BitVec 8) {g : CargField} (hg : g ≠ .w8 f) :
    (s.setCarg (s.carg.set8 f v)).readRegister (.carg g) = s.readRegister (.carg g) := by
  cases g with
  | w8 g => simp [State.readRegister, carg_get8_set8, ne_of_apply_ne CargField.w8 hg]
  | _ => cases f <;> rfl

theorem readRegister_carg_set1 (s : State) (f : Carg1) (v : BitVec 1) {g : CargField} (hg : g ≠ .w1 f) :
    (s.setCarg (s.carg.set1 f v)).readRegister (.carg g) = s.readRegister (.carg g) := by
  cases g with
  | w1 g => simp [State.readRegister, carg_get1_set1, ne_of_apply_ne CargField.w1 hg]
  | _ => cases f <;> rfl

theorem readRegister_carg_setMajor (s : State) (v : BitVec 4) {g : CargField} (hg : g ≠ .major) :
    (s.setCarg { s.carg with major := some v }).readRegister (.carg g) = s.readRegister (.carg g) := by
  cases g with
  | major => exact absurd rfl hg
  | _ => rfl

/-- A host write is read back (R79). -/
theorem apply_readRegister_target (a : HostWrite) (s : State) : (a.apply s).readRegister a.target = some a.value := by
  cases a with
  | hdr32 f v => exact congrArg numberOf ((hdr_get32_set32 s.hdr f f v).trans (if_pos rfl))
  | hdr16 f v => exact congrArg numberOf ((hdr_get16_set16 s.hdr f f v).trans (if_pos rfl))
  | hdr8 f v => exact congrArg numberOf ((hdr_get8_set8 s.hdr f f v).trans (if_pos rfl))
  | carg32 f v => exact congrArg numberOf ((carg_get32_set32 s.carg f f v).trans (if_pos rfl))
  | carg16 f v => exact congrArg numberOf ((carg_get16_set16 s.carg f f v).trans (if_pos rfl))
  | carg8 f v => exact congrArg numberOf ((carg_get8_set8 s.carg f f v).trans (if_pos rfl))
  | carg1 f v => exact congrArg numberOf ((carg_get1_set1 s.carg f f v).trans (if_pos rfl))
  | name i b => exact congrArg (Option.map RegValue.string) ((names_get_set s.name i i b).trans (if_pos rfl))
  | nameIn i b => exact congrArg (Option.map RegValue.string) ((names_get_set s.carg.nameIn i i b).trans (if_pos rfl))
  | _ => rfl

theorem target_mem_touched (a : HostWrite) : a.target ∈ a.touched := by
  cases a <;> exact List.mem_cons_self

/-- A host write leaves every register and view but its own as it was (R79). -/
theorem apply_readRegister_other {a : HostWrite} {r : Register} (hr : r ∉ a.touched) (s : State) :
    (a.apply s).readRegister r = s.readRegister r := by
  have ht : r ≠ a.target := fun h => hr (h ▸ target_mem_touched a)
  cases a with
  | inBuf b => exact readRegister_setInBuf s b ht fun h => hr (h ▸ List.mem_cons_of_mem _ List.mem_cons_self)
  | outBuf b => exact readRegister_setOutBuf s b ht fun h => hr (h ▸ List.mem_cons_of_mem _ List.mem_cons_self)
  | hdrFtt v => exact readRegister_setHdr (fun _ => readRegister_hdr_setFtt s v) ht
  | hdr32 f v => exact readRegister_setHdr (fun _ => readRegister_hdr_set32 s f v) ht
  | hdr16 f v => exact readRegister_setHdr (fun _ => readRegister_hdr_set16 s f v) ht
  | hdr8 f v => exact readRegister_setHdr (fun _ => readRegister_hdr_set8 s f v) ht
  | name i b => exact readRegister_setName s i b ht
  | payload b => exact readRegister_setPayload s _ ht
  | carg32 f v => exact readRegister_setCarg (carg_set32_strings _ f v) (fun _ => readRegister_carg_set32 s f v) ht
  | carg16 f v => exact readRegister_setCarg (carg_set16_strings _ f v) (fun _ => readRegister_carg_set16 s f v) ht
  | carg8 f v => exact readRegister_setCarg (carg_set8_strings _ f v) (fun _ => readRegister_carg_set8 s f v) ht
  | cargMajor v =>
    exact readRegister_setCarg (c := { s.carg with major := some v }) ⟨rfl, rfl⟩ (fun _ => readRegister_carg_setMajor s v) ht
  | carg1 f v => exact readRegister_setCarg (carg_set1_strings _ f v) (fun _ => readRegister_carg_set1 s f v) ht
  | nameIn i b =>
    exact readRegister_setCarg_strings
      (fun j hj => (names_get_set _ i j b).trans (if_neg fun h => ht (hj.trans (congrArg Register.nameIn h)))) fun _ => rfl
  | payloadIn b => exact readRegister_setCarg_strings (fun _ _ => rfl) fun h => absurd h ht

theorem hostWrite_of_fits {a : HostWrite} {s : State} (ha : a.overfills s.config = none) :
    hostWrite a s = .next (a.apply s) := by
  simp only [hostWrite, ha]

theorem hostWrite_of_overfills {a : HostWrite} {s : State} {r : Register} (ha : a.overfills s.config = some r) :
    hostWrite a s = .refused (.stringTooLong r) := by
  simp only [hostWrite, ha]

@[simp] theorem apply_config (a : HostWrite) (s : State) : (a.apply s).config = s.config := by cases a <;> rfl

@[simp] theorem apply_host (a : HostWrite) (s : State) : (a.apply s).host = s.host := by cases a <;> rfl

/-- Settles O49: the register reads back as written, every other one as before; a string too long for a buffer is refused. -/
theorem hostWritesOneRegister : Obligations.HostWritesOneRegister :=
  ⟨fun a s ha => ⟨a.apply s, hostWrite_of_fits ha, apply_readRegister_target a s,
      fun _ hr => apply_readRegister_other hr s, apply_config a s, apply_host a s⟩,
    fun _ _ hb => ⟨hostWrite_of_overfills (if_pos hb), hostWrite_of_overfills (if_pos hb)⟩⟩

/-! ### The step and reset (R17, R36, R37, R154) -/

/-- No operation changes the configuration (R36): it stands in the frame of every one. -/
theorem exec_config {i : Instr} {s t : State} (h : exec i s = .next t) : t.config = s.config := by
  obtain ⟨-, hconfig, -⟩ := operationsWriteOnlyTheirRegisters i s t h
  exact hconfig

theorem runEntry_config {e : HostEntry} {s t : State} (h : runEntry e s = .next t) : t.config = s.config := by
  rcases runEntry_next_cases h with rfl | ⟨w, i, hi⟩ | ⟨w, rfl⟩ | ⟨a, -, rfl⟩ | rfl
  · rfl
  · exact (exec_config hi).trans rfl
  · rfl
  · exact apply_config a s
  · rfl

/-- Settles O55: no entry of the host's program changes the configuration. -/
theorem configurationIsFixed : Obligations.ConfigurationIsFixed := by
  intro s t h
  obtain ⟨-, rfl | ⟨e, rest, he⟩⟩ := step_next_cases h
  · rfl
  · exact (runEntry_config he).trans rfl

/-- Settles O48: the entry is dropped, and the issue of a legal word runs its operation. -/
theorem stepRunsTheDecodedOperation : Obligations.StepRunsTheDecodedOperation := by
  intro s w rest i hc hh hw
  rw [step_of_cons hc hh]
  simp only [runEntry, issueCommand, hw]
  rfl

theorem resetWith_hdr (c : Config) (f : HdrField) : (State.resetWith c).readRegister (.hdr f) = none := by
  rcases f with _ | f | f | f
  · rfl
  all_goals cases f <;> rfl

theorem resetWith_carg (c : Config) (f : CargField) : (State.resetWith c).readRegister (.carg f) = none := by
  rcases f with f | f | f | _ | f
  case major => rfl
  all_goals cases f <;> rfl

/-- Settles O51: register by register, the fields of HDR and CARG and the names by their index. -/
theorem resetValues : Obligations.ResetValues := fun c =>
  ⟨rfl, rfl, rfl, rfl, rfl, rfl, rfl, resetWith_hdr c, fun i => by cases i <;> rfl, rfl, resetWith_carg c,
    fun i => by cases i <;> rfl, rfl⟩

/-- The host's program is no register of the block: no read sees it (R17, R39). -/
@[simp] theorem readRegister_setHost (s : State) (p : List HostEntry) (r : Register) :
    (s.setHost p).readRegister r = s.readRegister r := rfl

/-- Settles O52: the reset event answers the reset state under the same configuration, with the rest of the program. -/
theorem resetEventRestoresResetValues : Obligations.ResetEventRestoresResetValues := by
  intro s rest hc hh
  refine ⟨(State.resetWith s.config).setHost rest, ?_, rfl, rfl, fun r => readRegister_setHost _ rest r⟩
  rw [step_of_cons hc hh]
  rfl

end Sys2Proof.Machine
end

section
/-! PROOFS of the memory statements: several instances side by side (O58, O59). A step of the instance with index n modifies
the list of instances at n and nowhere else; what it leaves and that steps commute are facts about that list. -/

namespace Sys2Proof.Machine

/-! ### A step of a system -/

theorem set_advance_eq_modify {sys : List Placed} {n : Nat} {p : Placed} (hp : sys[n]? = some p) :
    sys.set n p.advance = sys.modify n Placed.advance := by
  rw [List.modify_eq_set_getElem?, hp]
  rfl

/-- A system's step answers a next system exactly where no buffer is shared and the instance exists, and in that system this
instance has made its step. -/
theorem systemStep_eq_next_iff {n : Nat} {sys x : List Placed} :
    systemStep n sys = .next x ↔
      buffersDistinct sys = true ∧ n < sys.length ∧ sys.modify n Placed.advance = x := by
  obtain ⟨hb, hstep⟩ | ⟨-, hn, hstep⟩ | ⟨p, hb, hp, hstep⟩ := systemStep_cases n sys
  · simp [hstep, hb]
  · have hlen : ¬ n < sys.length := by simpa using hn
    simp [hstep, hlen]
  · have hlen : n < sys.length := (List.getElem?_eq_some_iff.mp hp).1
    simp [hstep, hb, hlen, set_advance_eq_modify hp]

theorem systemStep_of_sharedBuffer {sys : List Placed} (n : Nat) (hb : buffersDistinct sys = false) :
    systemStep n sys = .refused .sharedBuffer := by
  simp [systemStep, hb]

@[simp] theorem buffersDistinct_modify_advance (n : Nat) (sys : List Placed) :
    buffersDistinct (sys.modify n Placed.advance) = buffersDistinct sys := by
  cases hp : sys[n]? with
  | none => rw [List.modify_eq_self (by simpa using hp)]
  | some p => rw [← set_advance_eq_modify hp, buffersDistinct_set_advance hp]

/-- The steps of two different instances change different places of the list, so their order does not matter. -/
theorem modify_advance_comm {m n : Nat} (hmn : m ≠ n) (sys : List Placed) :
    (sys.modify m Placed.advance).modify n Placed.advance =
      (sys.modify n Placed.advance).modify m Placed.advance := by
  refine List.ext_getElem? fun k => ?_
  by_cases hm : m = k
  · subst hm
    simp [hmn.symm]
  · simp [List.getElem?_modify, hm]

/-- Settles O58: a step modifies one place of the list and keeps the buffers, and two modifications of different places
commute. -/
theorem instancesAreIndependent : Obligations.InstancesAreIndependent := by
  refine ⟨fun sys n p hb hp => ?_, fun sys x y m n hmn hx hy => ?_, fun _ n => systemStep_of_sharedBuffer n⟩
  · have hlen : n < sys.length := (List.getElem?_eq_some_iff.mp hp).1
    refine ⟨_, systemStep_eq_next_iff.mpr ⟨hb, hlen, rfl⟩, ?_, fun m hm => List.getElem?_modify_ne _ _ hm.symm⟩
    rw [List.getElem?_modify_eq, hp]
    rfl
  · obtain ⟨hb, hmlen, rfl⟩ := systemStep_eq_next_iff.mp hx
    obtain ⟨-, hnlen, rfl⟩ := systemStep_eq_next_iff.mp hy
    rw [List.length_modify] at hnlen
    refine ⟨_, systemStep_eq_next_iff.mpr ⟨hb, hnlen, rfl⟩, systemStep_eq_next_iff.mpr ⟨?_, ?_, ?_⟩⟩
    · rwa [buffersDistinct_modify_advance]
    · rwa [List.length_modify]
    · exact (modify_advance_comm hmn sys).symm

/-! ### A run of a system -/

theorem systemRun_cons_of_next {n : Nat} {rest : List Nat} {sys x : List Placed} (h : systemStep n sys = .next x) :
    systemRun (n :: rest) sys = systemRun rest x := by
  simp only [systemRun, h]

/-- Any number of an instance's own steps leaves its buffers where they are. -/
theorem Placed.iterate_advance (k : Nat) (p : Placed) :
    Placed.advance^[k] p = { p with run := Run.advance^[k] p.run } := by
  induction k generalizing p with
  | zero => rfl
  | succ k ih => rw [Function.iterate_succ_apply, ih]; rfl

/-- Each instance after a run of the system is the instance before it, after as many steps of its own as the schedule
names it. -/
theorem systemRun_getElem? {sys : List Placed} {schedule : List Nat} (hb : buffersDistinct sys = true)
    (hs : ∀ n ∈ schedule, n < sys.length) :
    ∃ out, systemRun schedule sys = .next out ∧
      ∀ k : Nat, out[k]? = sys[k]?.map Placed.advance^[schedule.count k] := by
  induction schedule generalizing sys with
  | nil => exact ⟨sys, rfl, fun k => by simp⟩
  | cons n rest ih =>
    obtain ⟨hn, hrest⟩ := List.forall_mem_cons.mp hs
    obtain ⟨out, hrun, hout⟩ := ih (sys := sys.modify n Placed.advance) (by simpa using hb) (by simpa using hrest)
    refine ⟨out, ?_, fun k => ?_⟩
    · rwa [systemRun_cons_of_next (systemStep_eq_next_iff.mpr ⟨hb, hn, rfl⟩)]
    · rw [hout k]
      by_cases hk : n = k
      · subst hk
        simp [Function.iterate_succ]
      · simp [List.getElem?_modify_ne _ _ hk, List.count_cons_of_ne hk]

/-- Settles O59: an instance's own steps, counted along the schedule, act on how it stands and not on its buffers. -/
theorem interleavingsGiveTheSameResults : Obligations.InterleavingsGiveTheSameResults := by
  intro sys schedule hb hs
  obtain ⟨out, hrun, hout⟩ := systemRun_getElem? hb hs
  exact ⟨out, hrun, fun k => by simp only [hout k, ← Placed.iterate_advance]⟩

end Sys2Proof.Machine
end

section
/-! PROOFS of the encoding statements, first part: the command word. Decode and encode agree (O37, O36), the words
rejected are those of R75 (O38), and every command ends in one of the two ways of R152 (O40). -/

namespace Sys2Proof.Machine

/-! ### The fields of a command word, as numbers (R72) -/

theorem commandReserved_toNat (w : CommandWord) : (commandReserved w).toNat = w.toNat / 512 := by
  simp only [commandReserved, BitVec.extractLsb'_toNat, Nat.shiftRight_eq_div_pow]
  omega

theorem commandA_eq_decide (w : CommandWord) : commandA w = decide (w.toNat / 256 % 2 = 1) :=
  Nat.testBit_eq_decide_div_mod_eq

theorem commandOp_toNat (w : CommandWord) : (commandOp w).toNat = w.toNat % 256 := by
  simp [commandOp]

theorem encode_toNat (i : Instr) : (encode i).toNat = i.allocateBit.toNat * 256 + i.opcode.toNat := by
  rw [encode, BitVec.toNat_append, ← Nat.shiftLeft_add_eq_or_of_lt i.opcode.isLt, Nat.shiftLeft_eq]
  cases i.allocateBit <;> rfl

/-- A word is an operation's exactly when its reserved bits are 0 and its other two fields are the operation's. -/
theorem encode_eq_iff {i : Instr} {w : CommandWord} :
    encode i = w ↔ commandReserved w = 0#7 ∧ i.allocateBit = commandA w ∧ i.opcode = commandOp w := by
  have hop := i.opcode.isLt
  have hw := w.isLt
  simp only [← BitVec.toNat_inj, encode_toNat, commandReserved_toNat, commandOp_toNat, commandA_eq_decide]
  cases i.allocateBit <;> simp <;> omega

/-! ### The operation map (R73) -/

theorem plainForm_eq_ok {a : Bool} {i j : Instr} : plainForm a i = .ok j ↔ a = false ∧ i = j := by
  cases a <;> simp [plainForm]

theorem allocate_of_plainForm_error {a : Bool} {i : Instr} {e : DecodeError} (h : plainForm a i = .error e) : a = true := by
  cases a with
  | true => rfl
  | false => cases h

/-- The map takes each OP value to the one operation that has it, with the A bit where the operation takes one. -/
theorem decodeOp_eq_ok {a : Bool} {op : Nat} {i : Instr} :
    decodeOp a op = .ok i ↔ i.allocateBit = a ∧ i.opcode.toNat = op := by
  constructor
  · intro h
    unfold decodeOp at h
    split at h
    case h_6 | h_13 | h_15 | h_17 | h_19 => cases h; exact ⟨rfl, rfl⟩
    case h_22 => cases h
    all_goals
      obtain ⟨rfl, rfl⟩ := plainForm_eq_ok.mp h
      exact ⟨rfl, rfl⟩
  · rintro ⟨rfl, rfl⟩
    cases i <;> rfl

/-- The map has no operation for an unassigned OP, and none with A = 1 for an OP that is no encode's (R75 items 2, 3). -/
theorem illegal_of_decodeOp_error {a : Bool} {op : Nat} {e : DecodeError} (hop : op < 256)
    (h : decodeOp a op = .error e) : opUnassigned op = true ∨ a = true ∧ opIsEncode op = false := by
  unfold decodeOp at h
  split at h
  case h_6 | h_13 | h_15 | h_17 | h_19 => cases h
  case h_22 =>
    simp only [imp_false] at *
    left
    simp only [opUnassigned, Bool.or_eq_true, Bool.and_eq_true, beq_iff_eq, decide_eq_true_eq]
    omega
  all_goals exact .inr ⟨allocate_of_plainForm_error h, rfl⟩

theorem decode_eq_ok {w : CommandWord} {i : Instr} :
    decode w = .ok i ↔ commandReserved w = 0#7 ∧ decodeOp (commandA w) (commandOp w).toNat = .ok i := by
  unfold decode
  split <;> simp [*]

/-- Settles O37: both sides say that the reserved bits are 0 and that A and OP are the operation's. -/
theorem commandDecodeEncodeAgree : Obligations.CommandDecodeEncodeAgree := by
  intro w i
  rw [decode_eq_ok, decodeOp_eq_ok, BitVec.toNat_inj, encode_eq_iff]

theorem decode_encode (i : Instr) : decode (encode i) = .ok i := (commandDecodeEncodeAgree _ i).mpr rfl

/-- Settles O36: five words written out are the words of their operations, and three are no operation's. -/
theorem commandWordsDecode : Obligations.CommandWordsDecode :=
  ⟨decode_encode .packCtl, decode_encode (.hdrEnc true), decode_encode .mkCyc, decode_encode (.cycEnc false),
    decode_encode .parse, rfl, rfl, rfl⟩

/-! ### The illegal words (R75) -/

theorem commandLegal_encode (i : Instr) : commandLegal (encode i) = true := by
  cases i with
  | packCtl => exact Laws.LegalWord.packCtl
  | packMode => exact Laws.LegalWord.packMode
  | makeAddr => exact Laws.LegalWord.makeAddr
  | unpackCtl => exact Laws.LegalWord.unpackCtl
  | unpackMode => exact Laws.LegalWord.unpackMode
  | hdrEnc a => exact Laws.LegalWord.hdrEnc a
  | hdrDec => exact Laws.LegalWord.hdrDec
  | fit10 => exact Laws.LegalWord.fit10
  | mkToken => exact Laws.LegalWord.mkToken
  | mkTrig => exact Laws.LegalWord.mkTrig
  | mkPreq => exact Laws.LegalWord.mkPreq
  | mkCyc => exact Laws.LegalWord.mkCyc
  | tokenEnc a => exact Laws.LegalWord.tokenEnc a
  | tokenDec => exact Laws.LegalWord.tokenDec
  | trigEnc a => exact Laws.LegalWord.trigEnc a
  | trigDec => exact Laws.LegalWord.trigDec
  | preqEnc a => exact Laws.LegalWord.preqEnc a
  | preqDec => exact Laws.LegalWord.preqDec
  | cycEnc a => exact Laws.LegalWord.cycEnc a
  | cycDec => exact Laws.LegalWord.cycDec
  | parse => exact Laws.LegalWord.parse

/-- R75's three conditions on the fields of a word. -/
theorem commandLegal_eq_false {w : CommandWord} : commandLegal w = false ↔
    commandReserved w ≠ 0#7 ∨ opUnassigned (commandOp w).toNat = true ∨
      commandA w = true ∧ opIsEncode (commandOp w).toNat = false := by
  rw [Ne, ← BitVec.toNat_inj, commandReserved_toNat, commandOp_toNat, commandA_eq_decide]
  simp only [commandLegal, Bool.and_eq_false_iff, Bool.not_eq_false', Bool.and_eq_true, Bool.not_eq_true', beq_iff_eq,
    beq_eq_false_iff_ne, decide_eq_true_eq, or_assoc, BitVec.toNat_ofNat, Nat.zero_mod, Ne]

theorem commandLegal_of_decode_error {w : CommandWord} {e : DecodeError} (h : decode w = .error e) :
    commandLegal w = false := by
  rw [commandLegal_eq_false]
  unfold decode at h
  split at h
  · exact .inr (illegal_of_decodeOp_error (commandOp w).isLt h)
  · exact .inl ‹_›

theorem decode_ok_iff_legal (w : CommandWord) : (∃ i, decode w = .ok i) ↔ commandLegal w = true := by
  constructor
  · rintro ⟨i, h⟩
    rw [← (commandDecodeEncodeAgree w i).mp h]
    exact commandLegal_encode i
  · intro hlegal
    cases h : decode w with
    | ok i => exact ⟨i, rfl⟩
    | error e => rw [commandLegal_of_decode_error h] at hlegal; cases hlegal

/-- Settles O38: the decoder's own cases against the rule's conditions, and the branch of issueCommand for an illegal word. -/
theorem illegalWordsAreRejected : Obligations.IllegalWordsAreRejected := by
  refine ⟨decode_ok_iff_legal, fun w s hw => ?_⟩
  rcases issueCommand_cases w s with ⟨i, hi, -⟩ | ⟨e, -, h⟩
  · rw [(decode_ok_iff_legal w).mp ⟨i, hi⟩] at hw; cases hw
  · exact h

/-- An operation answers a next state with a listed STATUS, or faults UNWRITTEN: no other way to end is left (R152). -/
theorem exec_ends (i : Instr) (s : State) :
    (∃ t, exec i s = .next t ∧ t.status ∈ listedStatus) ∨ ∃ r, exec i s = .fault (.unwritten r) := by
  obtain ⟨op, hop⟩ := exec_eq_conclude i s
  cases h : exec i s with
  | next t =>
    refine .inl ⟨t, rfl, ?_⟩
    rcases exec_next_cases h with ⟨u, -, rfl⟩ | ⟨v, hv, -, rfl⟩
    · exact List.mem_cons_self
    · exact hv
  | fault f =>
    obtain ⟨r, -, rfl⟩ := conclude_eq_fault.mp (hop.symm.trans h)
    exact .inr ⟨r, rfl⟩
  | refused r => exact absurd (hop.symm.trans h) conclude_ne_refused

/-- Settles O40: an illegal word ends with 0x7F, a legal one as its operation does. -/
theorem everyCommandEndsInOneClass : Obligations.EveryCommandEndsInOneClass := by
  intro w s
  rcases issueCommand_cases w s with ⟨i, -, h⟩ | ⟨e, -, h⟩
  · rw [h]; exact exec_ends i (s.setCmd w)
  · exact .inl ⟨_, h, by rw [State.setStatus_status]; decide⟩

end Sys2Proof.Machine
end

section
/-! PROOFS of the encoding statements, second part: an operation faults UNWRITTEN exactly on its read set (O41). Each part
of an operation has its own read set; where parts follow one another the read sets are joined. -/

namespace Sys2Proof.Machine

/-! ### Where a part of an operation faults (R82, R139 step 3) -/

/-- A part of an operation run in s faults UNWRITTEN exactly when a register of rs holds ⊥, and names such a register. -/
structure FaultsOn {α : Type} (s : State) (rs : List Register) (x : Except Stop α) : Prop where
  names : ∀ r, x = .error (.unwritten r) → r ∈ rs ∧ s.readRegister r = none
  stops : ∀ r ∈ rs, s.readRegister r = none → ∃ q, x = .error (.unwritten q)

/-- A read of the registers rs: it stops in no other way than by UNWRITTEN, so that what follows it is reached exactly when
none of rs holds ⊥. -/
structure ReadsAll {α : Type} (s : State) (rs : List Register) (x : Except Stop α) : Prop extends FaultsOn s rs x where
  onlyUnwritten : ∀ e, x = .error e → ∃ q, e = .unwritten q

section
variable {α β : Type} {s : State} {rs rs' : List Register} {x : Except Stop α} {f : α → Except Stop β}

/-- A part that never faults has the empty read set. -/
theorem faultsOn_nil (h : ∀ r, x ≠ .error (.unwritten r)) : FaultsOn s [] x :=
  ⟨fun r hr => absurd hr (h r), nofun⟩

theorem faultsOn_ok (a : α) : FaultsOn s [] (.ok a : Except Stop α) := faultsOn_nil nofun

theorem faultsOn_raise (e : ErrorCode) : FaultsOn s [] (.error (.raise e) : Except Stop α) := faultsOn_nil nofun

/-- A part followed by one that never faults. -/
theorem FaultsOn.bind_nil (hx : FaultsOn s rs x) (hf : ∀ a, FaultsOn s [] (f a)) : FaultsOn s rs (x >>= f) where
  names r h := by
    rcases staged_bind_eq_error.mp h with h | ⟨a, -, h⟩
    · exact hx.names r h
    · exact absurd ((hf a).names r h).1 List.not_mem_nil
  stops r hr hnone := by
    obtain ⟨q, rfl⟩ := hx.stops r hr hnone
    exact ⟨q, rfl⟩

/-- A read followed by more faults on what either reads: if the read goes through, none of its registers holds ⊥. -/
theorem ReadsAll.bind (hx : ReadsAll s rs x) (hf : ∀ a, FaultsOn s rs' (f a)) : FaultsOn s (rs ++ rs') (x >>= f) where
  names r h := by
    rcases staged_bind_eq_error.mp h with h | ⟨a, -, h⟩
    · exact (hx.names r h).imp_left (List.mem_append_left _)
    · exact ((hf a).names r h).imp_left (List.mem_append_right _)
  stops r hr hnone := by
    cases x with
    | error e => obtain ⟨q, rfl⟩ := hx.onlyUnwritten e rfl; exact ⟨q, rfl⟩
    | ok a =>
      rcases List.mem_append.mp hr with hr | hr
      · obtain ⟨q, hq⟩ := hx.stops r hr hnone; cases hq
      · exact (hf a).stops r hr hnone

theorem FaultsOn.ite {p : Prop} [Decidable p] {y : Except Stop α} (hx : FaultsOn s rs x) (hy : FaultsOn s rs y) :
    FaultsOn s rs (if p then x else y) := by
  split
  · exact hx
  · exact hy

end

/-! ### The shared operations -/

/-- A read of the registers rs, from what its errors are and that it stops on each of rs. -/
theorem readsAll_of_error {α : Type} {s : State} {rs : List Register} {x : Except Stop α}
    (hx : ∀ {e}, x = .error e → ∃ q ∈ rs, s.readRegister q = none ∧ e = .unwritten q)
    (hstops : ∀ r ∈ rs, s.readRegister r = none → ∃ q, x = .error (.unwritten q)) : ReadsAll s rs x where
  names r h := by
    obtain ⟨q, hq, hnone, hr⟩ := hx h
    cases hr
    exact ⟨hq, hnone⟩
  stops := hstops
  onlyUnwritten e h := by
    obtain ⟨q, -, -, rfl⟩ := hx h
    exact ⟨q, rfl⟩

/-- A read of one register reads it alone. -/
theorem readsAll_readReg {α : Type} {s : State} {r : Register} {v : Option α} {g : α → RegValue}
    (h : s.readRegister r = v.map g) : ReadsAll s [r] (readReg r v) := by
  refine readsAll_of_error (fun he => ?_) fun q hq hnone => ?_
  · obtain ⟨rfl, rfl⟩ := readReg_eq_error.mp he
    exact ⟨r, List.mem_cons_self, h, rfl⟩
  · obtain rfl := List.mem_singleton.mp hq
    rw [h, Option.map_eq_none_iff] at hnone
    exact ⟨q, readReg_eq_error.mpr ⟨hnone, rfl⟩⟩

theorem exists_hdrField_of_mem : ∀ r ∈ hdrFields, ∃ f, r = .hdr f := by simp [hdrFields]

theorem exists_cargField_of_mem : ∀ r ∈ cargScalarFields, ∃ f, r = .carg f := by simp [cargScalarFields]

theorem exists_nameIn_of_mem : ∀ r ∈ nameInFields, ∃ i, r = .nameIn i := by simp [nameInFields]

theorem exists_name_of_mem : ∀ r ∈ nameFields, ∃ i, r = .name i := by simp [nameFields]

theorem readsAll_hdrRead (s : State) : ReadsAll s hdrFields s.hdr.read :=
  readsAll_of_error hdrRead_eq_error fun r hr hnone => by
    obtain ⟨f, rfl⟩ := exists_hdrField_of_mem r hr; exact hdrRead_stops hnone

theorem readsAll_cargRead (s : State) : ReadsAll s cargScalarFields s.carg.readScalars :=
  readsAll_of_error cargRead_eq_error fun r hr hnone => by
    obtain ⟨f, rfl⟩ := exists_cargField_of_mem r hr; exact cargRead_stops hnone

theorem readsAll_nameInRead (s : State) : ReadsAll s nameInFields (s.carg.nameIn.read .nameIn) :=
  readsAll_of_error nameInRead_eq_error fun r hr hnone => by
    obtain ⟨i, rfl⟩ := exists_nameIn_of_mem r hr; exact nameInRead_stops hnone

theorem readsAll_nameRead (s : State) : ReadsAll s nameFields (s.name.read .name) :=
  readsAll_of_error nameRead_eq_error fun r hr hnone => by
    obtain ⟨i, rfl⟩ := exists_name_of_mem r hr; exact nameRead_stops hnone

theorem faultsOn_emit (a : Bool) (f : Bytes) (s : State) : FaultsOn s [] (emit a f s) :=
  faultsOn_nil fun r h => by
    obtain ⟨-, -, hraise⟩ := emit_eq_error h
    cases hraise

theorem faultsOn_requireInput (n : Nat) (s : State) : FaultsOn s [] (requireInput n s) := by
  by_cases h : n ≤ s.inBuf.length
  · rw [requireInput_pass h]; exact faultsOn_ok _
  · rw [requireInput_stop (Nat.not_le.mp h)]; exact faultsOn_raise _

/-- A decode reads IN_BUF alone, which never holds ⊥ (R139). -/
theorem faultsOn_decode {n : Nat} {s : State} {f : Unit → State} :
    FaultsOn s [] (requireInput n s >>= fun x => pure (f x)) :=
  (faultsOn_requireInput n s).bind_nil fun _ => faultsOn_ok _

/-- The mark PARSE puts on an error makes no fault and hides none (R129). -/
theorem FaultsOn.wrapFailure {s : State} {rs : List Register} {op : Staged} (h : FaultsOn s rs op) :
    FaultsOn s rs (wrapFailure op) := by
  have hiff : ∀ r, Machine.wrapFailure op = .error (.unwritten r) ↔ op = .error (.unwritten r) := fun r => by
    rcases op with (e | e | q) | u <;> simp [Machine.wrapFailure]
  exact ⟨fun r hr => h.names r ((hiff r).mp hr), fun r hr hnone => (h.stops r hr hnone).imp fun q => (hiff q).mpr⟩

/-- Behind a KIND check that passes, an encode faults on what it reads (R139 steps 2 and 3). -/
theorem FaultsOn.of_requireKind {α : Type} {k : Kind} {s : State} {rs : List Register} {f : Unit → Except Stop α}
    (hk : s.kind = k) (hf : FaultsOn s rs (f ())) : FaultsOn s rs (requireKind k s >>= f) := by
  rw [requireKind_pass hk]; exact hf

theorem faultsOn_mkParticipation (tcd : BitVec 16) (k : Kind) (s : State) :
    FaultsOn s (cargScalarFields ++ nameInFields) (mkParticipation tcd k s) :=
  (readsAll_cargRead s).bind fun _ => (readsAll_nameInRead s).bind_nil fun _ => faultsOn_ok _

theorem faultsOn_participationEnc {k : Kind} (a : Bool) {s : State} (hk : s.kind = k) :
    FaultsOn s (hdrFields ++ nameFields) (participationEnc k a s) :=
  .of_requireKind hk <| (readsAll_hdrRead s).bind fun _ => (readsAll_nameRead s).bind_nil fun _ => faultsOn_emit a _ s

/-! ### The operations -/

/-- Where its KIND check passes, an operation faults on its read set. -/
theorem exec_faultsOn {i : Instr} {s : State} (hk : kindAllows i s) :
    ∃ op, exec i s = conclude s op ∧ FaultsOn s (readSet i) op := by
  cases i with
  | packCtl | makeAddr =>
    exact ⟨_, rfl, (readsAll_readReg rfl).bind fun _ => (readsAll_readReg rfl).bind_nil fun _ => faultsOn_ok _⟩
  | packMode =>
    exact ⟨_, rfl, (readsAll_readReg rfl).bind fun _ => (readsAll_readReg rfl).bind fun _ =>
      (readsAll_readReg rfl).bind_nil fun _ => faultsOn_ok _⟩
  | unpackCtl | unpackMode => exact ⟨_, rfl, (readsAll_readReg rfl).bind_nil fun _ => faultsOn_ok _⟩
  | hdrEnc a => exact ⟨_, rfl, (readsAll_hdrRead s).bind_nil fun _ => faultsOn_emit a _ s⟩
  | fit10 => exact ⟨_, rfl, (readsAll_nameInRead s).bind_nil fun _ => faultsOn_ok _⟩
  | mkToken => exact ⟨_, rfl, (readsAll_cargRead s).bind_nil fun _ => faultsOn_ok _⟩
  | mkTrig | mkPreq => exact ⟨_, rfl, faultsOn_mkParticipation _ _ s⟩
  | mkCyc =>
    exact ⟨_, rfl, (readsAll_cargRead s).bind fun _ => (readsAll_readReg rfl).bind_nil fun _ =>
      (faultsOn_raise _).ite (faultsOn_ok _)⟩
  | tokenEnc a => exact ⟨_, rfl, .of_requireKind (hk _ rfl) <| (readsAll_hdrRead s).bind_nil fun _ => faultsOn_emit a _ s⟩
  | trigEnc a | preqEnc a => exact ⟨_, rfl, faultsOn_participationEnc a (hk _ rfl)⟩
  | cycEnc a =>
    exact ⟨_, rfl, .of_requireKind (hk _ rfl) <| (readsAll_hdrRead s).bind fun _ =>
      (readsAll_readReg rfl).bind_nil fun _ => faultsOn_emit a _ s⟩
  | hdrDec | tokenDec | trigDec | preqDec | cycDec => exact ⟨_, rfl, faultsOn_decode⟩
  | parse =>
    exact ⟨_, rfl, (faultsOn_requireInput _ s).bind_nil fun _ =>
      faultsOn_decode.wrapFailure.ite (faultsOn_decode.wrapFailure.ite (faultsOn_raise _))⟩

theorem requireKind_bind_stop {α : Type} {k : Kind} {s : State} {f : Unit → Except Stop α} (hk : s.kind ≠ k) :
    (requireKind k s >>= f) = .error (.raise .illegalCommand) := by
  rw [requireKind_stop hk]; rfl

/-- Where its KIND check does not pass, an operation ends with ILLEGAL_COMMAND before it reads (R139 step 2). -/
theorem exec_of_not_kindAllows {i : Instr} {s : State} (hk : ¬ kindAllows i s) :
    exec i s = conclude s (.error (.raise .illegalCommand)) := by
  obtain ⟨k, hi, hne⟩ : ∃ k, requiredKind i = some k ∧ s.kind ≠ k := by simpa [kindAllows] using hk
  cases i with
  | tokenEnc a | trigEnc a | preqEnc a | cycEnc a =>
    cases hi
    exact congrArg (conclude s) (requireKind_bind_stop hne)
  | _ => cases hi

/-- A fault is UNWRITTEN of a register of the read set that holds ⊥, behind a KIND check that passed. -/
theorem exec_fault_names {i : Instr} {s : State} {r : Register} (h : exec i s = .fault (.unwritten r)) :
    kindAllows i s ∧ r ∈ readSet i ∧ s.readRegister r = none := by
  have hk : kindAllows i s := by
    by_contra hk
    rw [exec_of_not_kindAllows hk] at h
    cases h
  obtain ⟨op, hop, hfaults⟩ := exec_faultsOn hk
  obtain ⟨q, hq, hr⟩ := conclude_eq_fault.mp (hop.symm.trans h)
  cases hr
  exact ⟨hk, hfaults.names r hq⟩

/-- Settles O41: each operation's read set is that of its parts, one after the other. -/
theorem unwrittenExactlyOnReadSet : Obligations.UnwrittenExactlyOnReadSet := by
  refine ⟨fun i s => ⟨?_, ?_⟩, fun i s r h => (exec_fault_names h).2⟩
  · rintro ⟨r, h⟩
    obtain ⟨hk, hr, hnone⟩ := exec_fault_names h
    exact ⟨hk, r, hr, hnone⟩
  · rintro ⟨hk, r, hr, hnone⟩
    obtain ⟨op, hop, hfaults⟩ := exec_faultsOn hk
    obtain ⟨q, rfl⟩ := hfaults.stops r hr hnone
    exact ⟨q, hop⟩

end Sys2Proof.Machine
end

section
/-! PROOFS of the encoding statements, third part: the layout of the header and of a participation frame (O8, O23), and the
host's LOOPBACK and check (O50). A frame is its entries one after another, so an entry stands where the ones before it end. -/

namespace Sys2Proof.Machine

/-! ### The entries of a frame (R46, R60) -/

/-- Of byte strings one after another, each stands at the offset where those before it end. -/
theorem memReadBytes_flatten {L : List Bytes} {e : Bytes} {off n : Nat} (k : Nat) (he : L[k]? = some e)
    (hoff : (L.take k).flatten.length = off) (hn : e.length = n) : memReadBytes L.flatten off n = e := by
  obtain ⟨hk, rfl⟩ := List.getElem?_eq_some_iff.mp he
  have hsplit : L.flatten = (L.take k).flatten ++ (L[k] ++ (L.drop (k + 1)).flatten) := by
    rw [← List.flatten_cons, ← List.flatten_append, ← List.drop_eq_getElem_cons hk, List.take_append_drop]
  rw [hsplit, memReadBytes, ← hoff, ← hn, List.drop_left, List.take_left]

/-- The 28 entries of the wire header (R59), the reserved one zero (R66). -/
def headerEntries (h : Header) : List Bytes :=
  [Tag.bytes h.ftt, beBytes 4 h.tfl.toNat, beBytes 4 h.sa.toNat, beBytes 4 h.da.toNat, beBytes 4 h.vseq.toNat,
    beBytes 4 h.seq.toNat, beBytes 4 h.mctl.toNat, beBytes 2 h.uls.toNat, beBytes 2 h.msz.toNat, beBytes 4 h.madd.toNat,
    beBytes 1 h.mft.toNat, beBytes 1 h.mrlt.toNat, beBytes 2 0x0000, beBytes 2 h.tcd.toNat, beBytes 2 h.ver.toNat,
    beBytes 2 h.cad1.toNat, beBytes 2 h.csz1.toNat, beBytes 2 h.cad2.toNat, beBytes 2 h.csz2.toNat,
    beBytes 2 h.mode.toNat, beBytes 1 h.ptype.toNat, beBytes 1 h.pri.toNat, beBytes 1 h.cbn.toNat, beBytes 1 h.tbn.toNat,
    beBytes 2 h.bsize.toNat, beBytes 1 h.lks.toNat, beBytes 1 h.tw.toNat, beBytes 2 h.rct.toNat]

theorem hdrBytes_eq_flatten (h : Header) : hdrBytes h = (headerEntries h).flatten := by
  simp only [hdrBytes_eq_append, headerEntries, List.flatten_cons, List.flatten_nil, List.append_nil, List.append_assoc]

/-- An entry of the header that holds an integer of its width reads as the integer, at the offset where the entries before
it end. -/
theorem memRead_hdrBytes {h : Header} {off n w : Nat} {v : BitVec w} (k : Nat)
    (he : (headerEntries h)[k]? = some (beBytes n v.toNat)) (hoff : ((headerEntries h).take k).flatten.length = off)
    (hw : 2 ^ w ≤ 256 ^ n) : memRead (hdrBytes h) off n = v.toNat := by
  rw [memRead, hdrBytes_eq_flatten, memReadBytes_flatten k he hoff (beBytes_length _ _),
    beNat_beBytes n _ (v.isLt.trans_le hw)]

/-- Settles O8: entry k of R59 is entry k of the frame, and the lengths before it sum to its offset. -/
theorem headerLayout : Obligations.HeaderLayout := by
  intro h
  have hftt : memReadBytes (hdrBytes h) 0 4 = Tag.bytes h.ftt := by
    rw [hdrBytes_eq_flatten]; exact memReadBytes_flatten 0 rfl rfl rfl
  have hreserved : memReadBytes (hdrBytes h) 38 2 = [0x00#8, 0x00#8] := by
    rw [hdrBytes_eq_flatten]; exact memReadBytes_flatten 12 rfl rfl rfl
  exact ⟨hdrBytes_length h, hftt, memRead_hdrBytes 1 rfl rfl le_rfl, memRead_hdrBytes 2 rfl rfl le_rfl,
    memRead_hdrBytes 3 rfl rfl le_rfl, memRead_hdrBytes 4 rfl rfl le_rfl, memRead_hdrBytes 5 rfl rfl le_rfl,
    memRead_hdrBytes 6 rfl rfl le_rfl, memRead_hdrBytes 7 rfl rfl le_rfl, memRead_hdrBytes 8 rfl rfl le_rfl,
    memRead_hdrBytes 9 rfl rfl le_rfl, memRead_hdrBytes 10 rfl rfl le_rfl, memRead_hdrBytes 11 rfl rfl le_rfl, hreserved,
    memRead_hdrBytes 13 rfl rfl le_rfl, memRead_hdrBytes 14 rfl rfl le_rfl, memRead_hdrBytes 15 rfl rfl le_rfl,
    memRead_hdrBytes 16 rfl rfl le_rfl, memRead_hdrBytes 17 rfl rfl le_rfl, memRead_hdrBytes 18 rfl rfl le_rfl,
    memRead_hdrBytes 19 rfl rfl le_rfl, memRead_hdrBytes 20 rfl rfl le_rfl, memRead_hdrBytes 21 rfl rfl le_rfl,
    memRead_hdrBytes 22 rfl rfl le_rfl, memRead_hdrBytes 23 rfl rfl le_rfl, memRead_hdrBytes 24 rfl rfl le_rfl,
    memRead_hdrBytes 25 rfl rfl le_rfl, memRead_hdrBytes 26 rfl rfl le_rfl, memRead_hdrBytes 27 rfl rfl le_rfl⟩

/-- The five entries of a participation frame (R68), the trailer zero (R69). -/
def participationEntries (h : Header) (n : Bytes × Bytes × Bytes) : List Bytes :=
  [hdrBytes h, fit10 n.1, fit10 n.2.1, fit10 n.2.2, List.replicate Config.partRsvLen 0x00#8]

theorem partBytes_eq_flatten (h : Header) (n : Bytes × Bytes × Bytes) :
    partBytes h n = (participationEntries h n).flatten := by
  simp [partBytes, participationEntries]

/-- Settles O23: entry k of R68 is entry k of the frame; the header has 64 bytes, a fitted name 10. -/
theorem participationLayout : Obligations.ParticipationLayout := by
  intro h a b c
  refine ⟨partBytes_length h _, ?_⟩
  rw [partBytes_eq_flatten]
  refine ⟨memReadBytes_flatten 0 rfl rfl (hdrBytes_length h), memReadBytes_flatten 1 rfl ?_ (fit10_length a),
    memReadBytes_flatten 2 rfl ?_ (fit10_length b), memReadBytes_flatten 3 rfl ?_ (fit10_length c),
    memReadBytes_flatten 4 rfl ?_ rfl⟩
  all_goals simp [participationEntries]

/-! ### LOOPBACK and the host's checks (R79) -/

/-- The frame in OUT_BUF is OUT_BUF's first OUT_LEN bytes, so it fits IN_BUF where OUT_LEN does. -/
theorem hostLoopback_of_fits {s : State} (hout : s.outLen ≤ s.outBuf.length) (hmax : s.outLen ≤ s.config.maxBufLen) :
    hostLoopback s = .next { s with inBuf := s.outBuf.take s.outLen } := by
  have hfits : (HostWrite.inBuf (s.outBuf.take s.outLen)).overfills s.config = none := if_neg (by simp; omega)
  rw [hostLoopback, if_neg (Nat.not_lt.mpr hout), hostWrite_of_fits hfits]
  rfl

theorem hostLoopback_of_short {s : State} (hout : s.outBuf.length < s.outLen) :
    hostLoopback s = .refused .loopbackOutOfRange :=
  if_pos hout

theorem checkHolds_iff (r : Register) (v : RegValue) (s : State) :
    checkHolds r v s = true ↔ s.readRegister r = some v :=
  beq_iff_eq

/-- Settles O50: LOOPBACK within and beyond OUT_CAP, and the check that leaves the state as it is. -/
theorem hostLoopbackAndCheck : Obligations.HostLoopbackAndCheck :=
  ⟨fun _ => hostLoopback_of_fits, fun _ => hostLoopback_of_short, fun s r v => hostCheck_eq r v s,
    fun s r v => checkHolds_iff r v s⟩

end Sys2Proof.Machine
end

section
/-! PROOFS of the header codec statements, first part: the packing operations (O1 to O5) and their laws (O6). A packed
word is the join of fields, each a value shifted to its place; unpacking cuts a field out of its place. -/

namespace Sys2Proof.Machine

/-! ### Fields of a word (R24, R25) -/

/-- A field cut out of its own place is the value placed there. -/
theorem extractLsb'_placed_same {n w k : Nat} (x : BitVec n) (hfits : k + n ≤ w) :
    (x.setWidth w <<< k).extractLsb' k n = x := by
  ext i hi
  have hin : k + i < w := by omega
  have hcut : k + i - k = i := by omega
  simp [hin, hcut, hi, BitVec.getLsbD_eq_getElem]

/-- Of a field with another place, nothing is cut out. -/
theorem extractLsb'_placed_disjoint {m n w j k : Nat} (x : BitVec n) (hapart : j + n ≤ k ∨ k + m ≤ j) :
    (x.setWidth w <<< j).extractLsb' k m = 0#m := by
  ext i hi
  by_cases hlow : k + i < j
  · simp [hlow]
  · simp [BitVec.getLsbD_of_ge x (k + i - j) (by omega)]

/-- A field cut out and put back into its place is the word masked to the place. -/
theorem placed_extractLsb'_eq_and {w : Nat} (m : BitVec w) (k n : Nat) :
    (m.extractLsb' k n).setWidth w <<< k = m &&& (BitVec.allOnes n).setWidth w <<< k := by
  ext i hi
  by_cases hlow : i < k
  · simp [hlow]
  · have hback : k + (i - k) = i := by omega
    simp [hlow, hback, hi, BitVec.getLsbD_eq_getElem, Bool.and_comm]

theorem extractLsb'_one_eq_ofBool {w : Nat} (m : BitVec w) (k : Nat) :
    m.extractLsb' k 1 = BitVec.ofBool (m.getLsbD k) := by
  ext i hi
  obtain rfl : i = 0 := by omega
  simp

/-- The third field of ModeFlags stands at bit 0, where nothing is shifted. -/
theorem packModeFlags_eq_placed (minor : BitVec 8) (major : BitVec 4) (tmode : BitVec 1) :
    packModeFlags minor major tmode =
      (minor.setWidth 16 <<< 8) ||| (major.setWidth 16 <<< 4) ||| (tmode.setWidth 16 <<< 0) := by
  rw [BitVec.shiftLeft_zero]; rfl

@[simp] theorem controlTh_packControlFlags (th part : BitVec 1) : controlTh (packControlFlags th part) = th := by
  rw [controlTh, packControlFlags, BitVec.extractLsb'_or, extractLsb'_placed_same th (by norm_num),
    extractLsb'_placed_disjoint part (.inl (by norm_num)), BitVec.or_zero]

@[simp] theorem controlPart_packControlFlags (th part : BitVec 1) : controlPart (packControlFlags th part) = part := by
  rw [controlPart, packControlFlags, BitVec.extractLsb'_or, extractLsb'_placed_same part (by norm_num),
    extractLsb'_placed_disjoint th (.inr (by norm_num)), BitVec.zero_or]

@[simp] theorem modeMinor_packModeFlags (minor : BitVec 8) (major : BitVec 4) (tmode : BitVec 1) :
    modeMinor (packModeFlags minor major tmode) = minor := by
  rw [modeMinor, packModeFlags_eq_placed, BitVec.extractLsb'_or, BitVec.extractLsb'_or,
    extractLsb'_placed_same minor (by norm_num), extractLsb'_placed_disjoint major (.inl (by norm_num)),
    extractLsb'_placed_disjoint tmode (.inl (by norm_num)), BitVec.or_zero, BitVec.or_zero]

@[simp] theorem modeMajor_packModeFlags (minor : BitVec 8) (major : BitVec 4) (tmode : BitVec 1) :
    modeMajor (packModeFlags minor major tmode) = major := by
  rw [modeMajor, packModeFlags_eq_placed, BitVec.extractLsb'_or, BitVec.extractLsb'_or,
    extractLsb'_placed_same major (by norm_num), extractLsb'_placed_disjoint minor (.inr (by norm_num)),
    extractLsb'_placed_disjoint tmode (.inl (by norm_num)), BitVec.zero_or, BitVec.or_zero]

@[simp] theorem modeTmode_packModeFlags (minor : BitVec 8) (major : BitVec 4) (tmode : BitVec 1) :
    modeTmode (packModeFlags minor major tmode) = tmode := by
  rw [modeTmode, packModeFlags_eq_placed, BitVec.extractLsb'_or, BitVec.extractLsb'_or,
    extractLsb'_placed_same tmode (by norm_num), extractLsb'_placed_disjoint minor (.inr (by norm_num)),
    extractLsb'_placed_disjoint major (.inr (by norm_num)), BitVec.or_zero, BitVec.zero_or]

/-- The two flags alone come back: the mask is the join of their places. -/
theorem packControlFlags_control (m : BitVec 32) :
    packControlFlags (controlTh m) (controlPart m) = m &&& 0xC0000000#32 := by
  rw [packControlFlags, controlTh, controlPart, placed_extractLsb'_eq_and, placed_extractLsb'_eq_and,
    ← BitVec.and_or_distrib_left]
  rfl

/-- The three fields alone come back: the mask is the join of their places. -/
theorem packModeFlags_mode (m : BitVec 16) :
    packModeFlags (modeMinor m) (modeMajor m) (modeTmode m) = m &&& 0xFFF1#16 := by
  rw [packModeFlags_eq_placed, modeMinor, modeMajor, modeTmode, placed_extractLsb'_eq_and, placed_extractLsb'_eq_and,
    placed_extractLsb'_eq_and, ← BitVec.and_or_distrib_left, ← BitVec.and_or_distrib_left]
  rfl

/-! ### The five packing operations (R84 to R88) -/

/-- An operation that makes no KIND check faults if a register of its read set holds ⊥. -/
theorem exec_unwritten {i : Instr} {s : State} {r : Register} (hi : requiredKind i = none) (hr : r ∈ readSet i)
    (hnone : s.readRegister r = none) : ∃ q, exec i s = .fault (.unwritten q) := by
  have hk : kindAllows i s := fun k hk => by rw [hi] at hk; cases hk
  obtain ⟨hfaults, -⟩ := unwrittenExactlyOnReadSet
  exact (hfaults i s).mpr ⟨hk, r, hr, hnone⟩

theorem exec_packCtl {s : State} {th pt : BitVec 1} (hth : s.carg.thFlag = some th) (hpt : s.carg.partFlag = some pt) :
    exec .packCtl s = .next ((s.setHdr { s.hdr with mctl := some (packControlFlags th pt) }).setStatus statusOk) := by
  simp only [exec, execPackCtl, hth, hpt, readReg_some, staged_bind_ok, staged_pure, conclude_ok]

theorem exec_packMode {s : State} {mn : BitVec 8} {mj : BitVec 4} {tm : BitVec 1} (hmn : s.carg.minor = some mn)
    (hmj : s.carg.major = some mj) (htm : s.carg.tmode = some tm) :
    exec .packMode s = .next ((s.setHdr { s.hdr with mode := some (packModeFlags mn mj tm) }).setStatus statusOk) := by
  simp only [exec, execPackMode, hmn, hmj, htm, readReg_some, staged_bind_ok, staged_pure, conclude_ok]

theorem exec_makeAddr {s : State} {src dst : BitVec 8} (hsrc : s.carg.srcNode = some src)
    (hdst : s.carg.dstNode = some dst) :
    exec .makeAddr s = .next ((s.setHdr { s.hdr with
      sa := some (packAddress src), da := some (packAddress dst) }).setStatus statusOk) := by
  simp only [exec, execMakeAddr, hsrc, hdst, readReg_some, staged_bind_ok, staged_pure, conclude_ok]

theorem exec_unpackCtl {s : State} {m : BitVec 32} (hm : s.hdr.mctl = some m) :
    exec .unpackCtl s = .next ((s.setCarg { s.carg with
      thFlag := some (controlTh m), partFlag := some (controlPart m) }).setStatus statusOk) := by
  simp only [exec, execUnpackCtl, hm, readReg_some, staged_bind_ok, staged_pure, conclude_ok]

theorem exec_unpackMode {s : State} {m : BitVec 16} (hm : s.hdr.mode = some m) :
    exec .unpackMode s = .next ((s.setCarg { s.carg with
      minor := some (modeMinor m), major := some (modeMajor m), tmode := some (modeTmode m) }).setStatus statusOk) := by
  simp only [exec, execUnpackMode, hm, readReg_some, staged_bind_ok, staged_pure, conclude_ok]

/-- With one register in the read set, the fault names it. -/
theorem exec_unpackCtl_unwritten {s : State} (hm : s.hdr.mctl = none) :
    exec .unpackCtl s = .fault (.unwritten (.hdr (.w32 .mctl))) := by
  simp only [exec, execUnpackCtl, hm, readReg_none, staged_bind_error, conclude_unwritten]

theorem exec_unpackMode_unwritten {s : State} (hm : s.hdr.mode = none) :
    exec .unpackMode s = .fault (.unwritten (.hdr (.w16 .mode))) := by
  simp only [exec, execUnpackMode, hm, readReg_none, staged_bind_error, conclude_unwritten]

/-- Settles O6: an operation reads what the one before it wrote, and the laws are those of the packed words. -/
theorem packingLaws : Obligations.PackingLaws := by
  refine ⟨fun s th pt hth hpt => ?_, fun s mn mj tm hmn hmj htm => ?_, fun s m hm => ?_, fun s m hm => ?_⟩
  · exact ⟨_, _, exec_packCtl hth hpt, exec_unpackCtl rfl, congrArg some (controlTh_packControlFlags th pt),
      congrArg some (controlPart_packControlFlags th pt)⟩
  · exact ⟨_, _, exec_packMode hmn hmj htm, exec_unpackMode rfl, congrArg some (modeMinor_packModeFlags mn mj tm),
      congrArg some (modeMajor_packModeFlags mn mj tm), congrArg some (modeTmode_packModeFlags mn mj tm)⟩
  · exact ⟨_, _, exec_unpackCtl hm, exec_packCtl rfl rfl, congrArg some (packControlFlags_control m)⟩
  · exact ⟨_, _, exec_unpackMode hm, exec_packMode rfl rfl rfl, congrArg some (packModeFlags_mode m)⟩

/-- Settles O1: the operation with both flags written, and with either at ⊥. -/
theorem packCtlPacksFlags : Obligations.PackCtlPacksFlags := by
  refine ⟨decode_encode .packCtl, fun s th pt hth hpt => exec_packCtl hth hpt, fun s h => ?_⟩
  rcases h with h | h
  · exact exec_unwritten (r := .carg (.w1 .thFlag)) rfl (by simp [readSet]) (congrArg numberOf h)
  · exact exec_unwritten (r := .carg (.w1 .partFlag)) rfl (by simp [readSet]) (congrArg numberOf h)

/-- Settles O2: the operation with the three fields written, and with one of them at ⊥. -/
theorem packModePacksVersions : Obligations.PackModePacksVersions := by
  refine ⟨decode_encode .packMode, fun s mn mj tm hmn hmj htm => exec_packMode hmn hmj htm, fun s h => ?_⟩
  rcases h with h | h | h
  · exact exec_unwritten (r := .carg (.w8 .minor)) rfl (by simp [readSet]) (congrArg numberOf h)
  · exact exec_unwritten (r := .carg .major) rfl (by simp [readSet]) (congrArg numberOf h)
  · exact exec_unwritten (r := .carg (.w1 .tmode)) rfl (by simp [readSet]) (congrArg numberOf h)

/-- Settles O3: the operation with both node numbers written, and with either at ⊥. -/
theorem makeAddrFormsAddresses : Obligations.MakeAddrFormsAddresses := by
  refine ⟨decode_encode .makeAddr, fun s src dst hsrc hdst => exec_makeAddr hsrc hdst, fun s h => ?_⟩
  rcases h with h | h
  · exact exec_unwritten (r := .carg (.w8 .srcNode)) rfl (by simp [readSet]) (congrArg numberOf h)
  · exact exec_unwritten (r := .carg (.w8 .dstNode)) rfl (by simp [readSet]) (congrArg numberOf h)

/-- Settles O4: a field of one bit is the bit. -/
theorem unpackCtlSplitsFlags : Obligations.UnpackCtlSplitsFlags := by
  refine ⟨decode_encode .unpackCtl, fun s m hm => ?_, fun s hm => exec_unpackCtl_unwritten hm⟩
  rw [exec_unpackCtl hm, controlTh, controlPart, extractLsb'_one_eq_ofBool, extractLsb'_one_eq_ofBool]
  rfl

/-- Settles O5: MINOR and MAJOR are cut out as they stand, and TMODE is a field of one bit. -/
theorem unpackModeSplitsVersions : Obligations.UnpackModeSplitsVersions := by
  refine ⟨decode_encode .unpackMode, fun s m hm => ?_, fun s hm => exec_unpackMode_unwritten hm⟩
  rw [exec_unpackMode hm, modeTmode, extractLsb'_one_eq_ofBool]
  rfl

end Sys2Proof.Machine
end

section
/-! PROOFS of the header codec statements, second part: the output of an encode (O44), HDR_ENC and HDR_DEC (O12, O13).
Behind its KIND check, an encode is the output step of the frame it computes. -/

namespace Sys2Proof.Machine

/-! ### The frame of an encode (R91, R162) -/

theorem readValue_eq_some {α : Type} {x : Except Stop α} {a : α} : readValue x = some a ↔ x = .ok a := by
  cases x <;> simp [readValue]

/-- Where its KIND check passes and it reads no ⊥, an encode ends as the output step of its frame does. -/
theorem exec_eq_emit {i : Instr} {s : State} {f : Bytes} (hk : kindAllows i s) (hf : storedFrame i s = some f) :
    exec i s = conclude s (emit i.allocateBit f s) := by
  cases i with
  | hdrEnc a =>
    simp only [storedFrame, Option.map_eq_some_iff, readValue_eq_some] at hf
    obtain ⟨h, hh, rfl⟩ := hf
    simp only [exec, execHdrEnc, hh, staged_bind_ok, Instr.allocateBit]
  | tokenEnc a =>
    simp only [storedFrame, Option.map_eq_some_iff, readValue_eq_some] at hf
    obtain ⟨h, hh, rfl⟩ := hf
    simp only [exec, execTokenEnc, requireKind_pass (hk _ rfl), hh, staged_bind_ok, Instr.allocateBit]
  | trigEnc a | preqEnc a =>
    simp only [storedFrame, Option.map_eq_some_iff, Option.bind_eq_some_iff, readValue_eq_some] at hf
    obtain ⟨h, hh, n, hn, rfl⟩ := hf
    simp only [exec, execTrigEnc, execPreqEnc, participationEnc, requireKind_pass (hk _ rfl), hh, hn, staged_bind_ok,
      Instr.allocateBit]
  | cycEnc a =>
    simp only [storedFrame, Option.map_eq_some_iff, Option.bind_eq_some_iff, readValue_eq_some] at hf
    obtain ⟨h, hh, p, hp, rfl⟩ := hf
    simp only [exec, execCycEnc, requireKind_pass (hk _ rfl), hh, hp, readReg_some, staged_bind_ok, Instr.allocateBit]
  | _ => cases hf

theorem readByte_append_left {f g : Bytes} {k : Nat} (hk : k < f.length) : readByte (f ++ g) k = readByte f k :=
  List.getElem?_append_left hk

/-- A string written over the start of another: from its end on, the bytes are the other's. -/
theorem readByte_append_drop {f B : Bytes} {k : Nat} (hk : f.length ≤ k) :
    readByte (f ++ B.drop f.length) k = readByte B k := by
  rw [readByte, List.getElem?_append_right hk, List.getElem?_drop, Nat.add_sub_of_le hk, readByte]

theorem readByte_of_length_le {B : Bytes} {k : Nat} (hk : B.length ≤ k) : readByte B k = none :=
  List.getElem?_eq_none hk

/-- What the output step leaves in OUT_LEN and OUT_BUF, byte by byte (R91). -/
theorem emit_stores {a : Bool} {f : Bytes} {s t : State} (h : emit a f s = .ok t) :
    t.outLen = f.length ∧ (∀ k, k < f.length → readByte t.outBuf k = readByte f k) ∧
      ∀ k, f.length ≤ k → readByte t.outBuf k = if a then none else readByte s.outBuf k := by
  rcases emit_eq_ok h with ⟨rfl, rfl⟩ | ⟨rfl, -, rfl⟩
  · exact ⟨rfl, fun k _ => rfl, fun k hk => readByte_of_length_le hk⟩
  · exact ⟨rfl, fun k hk => readByte_append_left hk, fun k hk => readByte_append_drop hk⟩

theorem errorCode_ne_statusOk (e : ErrorCode) : e.code ≠ statusOk := by
  cases e <;> decide

/-- The KIND check of an operation that ends with STATUS = OK has passed. -/
theorem kindAllows_of_status_ok {i : Instr} {s t : State} (h : exec i s = .next t) (ht : t.status = statusOk) :
    kindAllows i s := by
  by_contra hk
  rw [exec_of_not_kindAllows hk] at h
  cases h
  exact errorCode_ne_statusOk .illegalCommand ht

/-- Settles O44: an encode that ends with STATUS = OK is its output step, which went through. -/
theorem encodeStoresExactlyTheFrame : Obligations.EncodeStoresExactlyTheFrame := by
  intro i s t f hf h ht
  rw [exec_eq_emit (kindAllows_of_status_ok h ht) hf] at h
  cases he : emit i.allocateBit f s with
  | ok u =>
    rw [he] at h
    cases h
    have hstores := emit_stores he
    exact hstores
  | error e =>
    obtain ⟨-, -, rfl⟩ := emit_eq_error he
    rw [he] at h
    cases h
    exact absurd ht (errorCode_ne_statusOk .tooShortToMarshal)

/-! ### HDR_ENC and HDR_DEC (R92, R93) -/

/-- With HDR written, HDR_ENC is the output step of the header's bytes, under any KIND. -/
theorem exec_hdrEnc {s : State} {h : Header} (hs : s.hdr = HdrReg.ofHeader h) (a : Bool) :
    exec (.hdrEnc a) s = conclude s (emit a (hdrBytes h) s) :=
  exec_eq_emit nofun (by rw [storedFrame, hs, hdrRead_ofHeader]; rfl)

theorem exec_hdrEnc_allocate {s : State} {h : Header} (hs : s.hdr = HdrReg.ofHeader h) :
    exec (.hdrEnc true) s = .next { s with outBuf := hdrBytes h, outLen := 64, status := statusOk } := by
  rw [exec_hdrEnc hs, emit_allocate_len (hdrBytes_length h), conclude_ok, State.setOutput_setStatus_eq]

theorem exec_hdrEnc_inPlace {s : State} {h : Header} (hs : s.hdr = HdrReg.ofHeader h) (hfits : 64 ≤ s.outBuf.length) :
    exec (.hdrEnc false) s =
      .next { s with outBuf := hdrBytes h ++ s.outBuf.drop 64, outLen := 64, status := statusOk } := by
  rw [exec_hdrEnc hs, emit_inPlace_fits_len (hdrBytes_length h) hfits, conclude_ok, State.setOutput_setStatus_eq]

theorem exec_hdrEnc_short {s : State} {h : Header} (hs : s.hdr = HdrReg.ofHeader h) (hshort : s.outBuf.length < 64) :
    exec (.hdrEnc false) s = .next (s.setStatus ErrorCode.tooShortToMarshal.code) := by
  rw [exec_hdrEnc hs, emit_inPlace_short_len (hdrBytes_length h) hshort, conclude_raise]

theorem exec_hdrEnc_unwritten {s : State} {f : HdrField} (a : Bool) (hf : s.readRegister (.hdr f) = none) :
    ∃ r, exec (.hdrEnc a) s = .fault (.unwritten r) := by
  obtain ⟨q, hq⟩ := hdrRead_stops hf
  exact ⟨q, by simp only [exec, execHdrEnc, hq, staged_bind_error, conclude_unwritten]⟩

theorem exec_hdrDec {s : State} (hlen : 64 ≤ s.inBuf.length) :
    exec .hdrDec s = .next { s with
      hdr := HdrReg.ofHeader (hdrParse s.inBuf), kind := .none, name := Names.unwritten, payload := none,
      status := statusOk } := by
  simp only [exec, execHdrDec, requireInput_pass hlen, staged_bind_ok, staged_pure, conclude_ok,
    State.setVariant_setStatus_eq]

theorem exec_hdrDec_short {s : State} (hlen : s.inBuf.length < 64) :
    exec .hdrDec s = .next (s.setStatus ErrorCode.tooShortToParse.code) := by
  simp only [exec, execHdrDec, requireInput_stop hlen, staged_bind_error, conclude_raise]

/-- Settles O12: the output step in its three cases, and the read of HDR that stops. -/
theorem hdrEncWritesHeader : Obligations.HdrEncWritesHeader :=
  ⟨decode_encode (.hdrEnc false), decode_encode (.hdrEnc true), fun _ _ hs => exec_hdrEnc_allocate hs,
    fun _ _ hs hfits => exec_hdrEnc_inPlace hs hfits, fun _ _ hs hshort => exec_hdrEnc_short hs hshort,
    fun _ a _ hf => exec_hdrEnc_unwritten a hf⟩

/-- Settles O13: HDR_DEC on each side of its length check. -/
theorem hdrDecReadsHeader : Obligations.HdrDecReadsHeader :=
  ⟨decode_encode .hdrDec, fun _ hlen => exec_hdrDec hlen, fun _ hlen => exec_hdrDec_short hlen⟩

end Sys2Proof.Machine
end

section
/-! PROOFS of the header codec statements, third part: hdr_parse field by field (O9) and the two round trips (O10, O11).
Record first, each field is read where the header's layout (O8) has it. Bytes first, the frame is the slices the fields were
read from, one after another, but for the reserved bytes. -/

namespace Sys2Proof.Machine

/-! ### Fields of a buffer (R11, R83, R90) -/

/-- A machine word read from as many bytes as it has is the integer they hold. -/
theorem toNat_ofNat_memRead {w n : Nat} (hw : 256 ^ n ≤ 2 ^ w) (B : Bytes) (off : Nat) :
    (BitVec.ofNat w (memRead B off n)).toNat = memRead B off n := by
  have hlen : (memReadBytes B off n).length ≤ n := List.length_take_le _ _
  have hlt : memRead B off n < 2 ^ w :=
    calc memRead B off n < 256 ^ (memReadBytes B off n).length := beNat_lt _
      _ ≤ 256 ^ n := Nat.pow_le_pow_right (by norm_num) hlen
      _ ≤ 2 ^ w := hw
  rw [BitVec.toNat_ofNat, Nat.mod_eq_of_lt hlt]

theorem some_getD_eq_readByte {B : Bytes} {k : Nat} (hk : k < B.length) : some (B.getD k 0) = readByte B k := by
  simp [readByte, hk]

/-- A tag is read as the four bytes at its offset. -/
theorem tagBytes_memReadTag {B : Bytes} {off : Nat} (h : off + 4 ≤ B.length) :
    Tag.bytes (memReadTag B off) = memReadBytes B off 4 := by
  rw [memReadBytes_succ h, memReadBytes_succ (by omega), memReadBytes_succ (by omega), memReadBytes_succ (by omega)]
  simp [Tag.bytes, memReadTag, memReadBytes]

theorem tagBytes_injective {t u : Tag} (h : Tag.bytes t = Tag.bytes u) : t = u := by
  cases t
  cases u
  simpa [Tag.bytes] using h

/-- A range within the first m bytes is read from them alone. -/
theorem memReadBytes_take {m off n : Nat} (B : Bytes) (h : off + n ≤ m) :
    memReadBytes (B.take m) off n = memReadBytes B off n := by
  rw [memReadBytes, List.drop_take, List.take_take, Nat.min_eq_left (by omega), memReadBytes]

theorem memRead_take {m off n : Nat} (B : Bytes) (h : off + n ≤ m) : memRead (B.take m) off n = memRead B off n := by
  rw [memRead, memReadBytes_take B h, memRead]

/-- No byte from offset 64 on is read (R90). -/
theorem hdrParse_take (B : Bytes) : hdrParse (B.take 64) = hdrParse B := by
  simp [hdrParse, memReadTag, memRead_take]

/-- Settles O9: a field is as wide as the bytes it is read from. -/
theorem headerParseReadsFields : Obligations.HeaderParseReadsFields := by
  intro B hB
  have byte : ∀ {k}, k < 4 → some (B.getD k 0) = readByte B k := fun hk => some_getD_eq_readByte (by omega)
  have u32 : ∀ off, (BitVec.ofNat 32 (memRead B off 4)).toNat = memRead B off 4 := toNat_ofNat_memRead le_rfl B
  have u16 : ∀ off, (BitVec.ofNat 16 (memRead B off 2)).toNat = memRead B off 2 := toNat_ofNat_memRead le_rfl B
  have u8 : ∀ off, (BitVec.ofNat 8 (memRead B off 1)).toNat = memRead B off 1 := toNat_ofNat_memRead le_rfl B
  exact ⟨(hdrParse_take B).symm, byte (by norm_num), byte (by norm_num), byte (by norm_num), byte (by norm_num),
    u32 4, u32 8, u32 12, u32 16, u32 20, u32 24, u16 28, u16 30, u32 32, u8 36, u8 37, u16 40, u16 42, u16 44, u16 46,
    u16 48, u16 50, u16 52, u8 54, u8 55, u8 56, u8 57, u16 58, u8 60, u8 61, u16 62⟩

/-! ### Record first (R96) -/

/-- Each field is read from where the header has it (O8). -/
theorem hdrParse_hdrBytes (h : Header) : hdrParse (hdrBytes h) = h := by
  obtain ⟨hlen, hftt, hfields⟩ := headerLayout h
  have htag : memReadTag (hdrBytes h) 0 = h.ftt := tagBytes_injective ((tagBytes_memReadTag (by omega)).trans hftt)
  simp only [hdrParse, htag, hfields, BitVec.ofNat_toNat, BitVec.setWidth_eq]

/-- A 64-byte frame in OUT_BUF, moved to IN_BUF and decoded (R79, R93). -/
theorem hostLoopback_hdrDec {t : State} (hbuf : t.outBuf.length = 64) (hout : t.outLen = 64)
    (hmax : 64 ≤ t.config.maxBufLen) :
    ∃ u v, hostLoopback t = .next u ∧ exec .hdrDec u = .next v ∧ v.hdr = HdrReg.ofHeader (hdrParse t.outBuf) := by
  have hall : t.outBuf.take t.outLen = t.outBuf := List.take_of_length_le (by omega)
  have hloop := hostLoopback_of_fits (s := t) (by omega) (by omega)
  rw [hall] at hloop
  exact ⟨_, _, hloop, exec_hdrDec hbuf.ge, rfl⟩

/-- Settles O10: HDR_ENC.A leaves the header's bytes in OUT_BUF, LOOPBACK moves them, HDR_DEC parses them. -/
theorem headerRoundTripRecordFirst : Obligations.HeaderRoundTripRecordFirst := by
  refine ⟨hdrParse_hdrBytes, fun s h hc hs => ?_⟩
  have hmax : 64 ≤ s.config.maxBufLen := le_trans (by norm_num) (maxBufLen_of_legal hc)
  have henc := exec_hdrEnc_allocate hs
  obtain ⟨u, v, hloop, hdec, hv⟩ := hostLoopback_hdrDec
    (t := { s with outBuf := hdrBytes h, outLen := 64, status := statusOk }) (hdrBytes_length h) rfl hmax
  rw [hdrParse_hdrBytes] at hv
  exact ⟨_, u, v, henc, hloop, hdec, hv⟩

/-! ### Bytes first (R97, R99) -/

/-- The bytes of a machine word read from a range are the range. -/
theorem beBytes_toNat_ofNat_memRead {w n off : Nat} {B : Bytes} (hw : 256 ^ n ≤ 2 ^ w) (h : off + n ≤ B.length) :
    beBytes n (BitVec.ofNat w (memRead B off n)).toNat = memReadBytes B off n := by
  have hbytes := beBytes_beNat (memReadBytes B off n)
  rwa [memReadBytes_length h, ← memRead, ← toNat_ofNat_memRead hw] at hbytes

/-- Two ranges of which the second begins where the first ends are one range. -/
theorem memReadBytes_append {B : Bytes} {off off' n m : Nat} (hoff : off + n = off') :
    memReadBytes B off n ++ memReadBytes B off' m = memReadBytes B off (n + m) := by
  subst hoff
  simp only [memReadBytes, List.take_add, List.drop_drop]

theorem memReadBytes_append_assoc {B s : Bytes} {off off' n m : Nat} (hoff : off + n = off') :
    memReadBytes B off n ++ (memReadBytes B off' m ++ s) = memReadBytes B off (n + m) ++ s := by
  rw [← List.append_assoc, memReadBytes_append hoff]

/-- The frame of a parsed header: the bytes before the reserved ones, two zeros, and the bytes after them. -/
theorem hdrBytes_hdrParse_eq_append {b : Bytes} (hb : 64 ≤ b.length) :
    hdrBytes (hdrParse b) = memReadBytes b 0 38 ++ (beBytes 2 0 ++ memReadBytes b 40 24) := by
  have tag : Tag.bytes (memReadTag b 0) = memReadBytes b 0 4 := tagBytes_memReadTag (by omega)
  have u32 : ∀ {off}, off ≤ 60 → beBytes 4 (BitVec.ofNat 32 (memRead b off 4)).toNat = memReadBytes b off 4 :=
    fun _ => beBytes_toNat_ofNat_memRead le_rfl (by omega)
  have u16 : ∀ {off}, off ≤ 62 → beBytes 2 (BitVec.ofNat 16 (memRead b off 2)).toNat = memReadBytes b off 2 :=
    fun _ => beBytes_toNat_ofNat_memRead le_rfl (by omega)
  have u8 : ∀ {off}, off ≤ 63 → beBytes 1 (BitVec.ofNat 8 (memRead b off 1)).toNat = memReadBytes b off 1 :=
    fun _ => beBytes_toNat_ofNat_memRead le_rfl (by omega)
  rw [hdrBytes_eq_append]
  simp only [hdrParse, List.append_assoc]
  simp (disch := norm_num) only [tag, u32, u16, u8, memReadBytes_append, memReadBytes_append_assoc]

/-- The frame of a parsed header is the header's 64 bytes with the reserved ones written 0 (R97). -/
theorem hdrBytes_hdrParse {b : Bytes} (hb : 64 ≤ b.length) :
    hdrBytes (hdrParse b) = ((b.take 64).set 38 0x00#8).set 39 0x00#8 := by
  have hsplit : b.take 64 = memReadBytes b 0 38 ++ (memReadBytes b 38 2 ++ memReadBytes b 40 24) := by
    rw [memReadBytes_append rfl, memReadBytes_append rfl]
    rfl
  have hpair : memReadBytes b 38 2 = [b.getD 38 0, b.getD 39 0] := by
    rw [memReadBytes_succ (by omega), memReadBytes_succ (by omega)]
    rfl
  have hlow : (memReadBytes b 0 38).length = 38 := memReadBytes_length (by omega)
  rw [hdrBytes_hdrParse_eq_append hb, hsplit, hpair]
  simp [hlow, beBytes]

theorem set_of_readByte {b : Bytes} {k : Nat} {x : Byte} (h : readByte b k = some x) : b.set k x = b := by
  obtain ⟨hk, rfl⟩ := List.getElem?_eq_some_iff.mp h
  exact List.set_getElem_self hk

/-- The reserved bytes of a frame are 0 (R66). -/
theorem readByte_hdrBytes_reserved (h : Header) :
    readByte (hdrBytes h) 38 = some 0x00#8 ∧ readByte (hdrBytes h) 39 = some 0x00#8 := by
  have hreserved : memReadBytes (hdrBytes h) 38 2 = [0x00#8, 0x00#8] := by
    rw [hdrBytes_eq_flatten]; exact memReadBytes_flatten 12 rfl rfl rfl
  have byte : ∀ {k}, k < 2 → readByte (hdrBytes h) (38 + k) = readByte [0x00#8, 0x00#8] k := fun hk => by
    rw [← readByte_memReadBytes hk, hreserved]
  exact ⟨byte (k := 0) (by norm_num), byte (k := 1) (by norm_num)⟩

/-- 64 bytes whose reserved ones are 0 come back as they were (R97). -/
theorem hdrBytes_hdrParse_of_reserved {b : Bytes} (hlen : b.length = 64) (h38 : readByte b 38 = some 0x00#8)
    (h39 : readByte b 39 = some 0x00#8) : hdrBytes (hdrParse b) = b := by
  rw [hdrBytes_hdrParse hlen.ge, List.take_of_length_le hlen.le, set_of_readByte h38, set_of_readByte h39]

/-- Settles O11: the reserved bytes of a frame are 0, and a string that has them so comes back. -/
theorem headerRoundTripBytesFirst : Obligations.HeaderRoundTripBytesFirst := by
  refine ⟨fun b hlen => ?_, fun b hlen => ⟨fun hb => ?_, fun ⟨h38, h39⟩ => ?_⟩, fun b hlen => ?_,
    fun b => ⟨?_, fun ⟨hlen, h38, h39⟩ => ?_⟩⟩
  · rw [hdrBytes_hdrParse hlen.ge, List.take_of_length_le hlen.le]
  · exact hb ▸ readByte_hdrBytes_reserved (hdrParse b)
  · exact hdrBytes_hdrParse_of_reserved hlen h38 h39
  · exact hdrBytes_hdrParse hlen.le
  · rintro ⟨h, rfl⟩
    exact ⟨hdrBytes_length h, readByte_hdrBytes_reserved h⟩
  · exact ⟨hdrParse b, hdrBytes_hdrParse_of_reserved hlen h38 h39⟩

end Sys2Proof.Machine
end


section
/-! PROOFS of the frame variant statements, first part: the fit of a name (O14), FIT10 (O15) and the constructors (O16 to
O20). A constructor stages the variant register from the arguments it reads, or stops on one that holds ⊥. -/

namespace Sys2Proof.Machine

/-! ### Names (R100, R101) -/

theorem fit10_of_le {s : Bytes} (h : 10 ≤ s.length) : fit10 s = s.take 10 := if_pos h

theorem fit10_of_lt {s : Bytes} (h : s.length < 10) : fit10 s = s ++ List.replicate (10 - s.length) 0x20#8 :=
  if_neg (Nat.not_le.mpr h)

/-- Settles O14: the two branches of the fit; a fitted name has the length that fits already. -/
theorem fitTenTruncatesOrPads : Obligations.FitTenTruncatesOrPads :=
  ⟨fun _ => fit10_of_le, fun _ => fit10_of_lt, fun s => ⟨fit10_length s, fit10_of_length (fit10_length s)⟩⟩

theorem exec_fit10 {s : State} {a b c : Bytes} (hs : s.carg.nameIn = Names.ofStrings a b c) :
    exec .fit10 s = .next ((s.setName (fittedNames (a, b, c))).setStatus statusOk) := by
  simp only [exec, execFit10, hs, namesRead_ofStrings, staged_bind_ok, staged_pure, conclude_ok]

theorem hdr_mem_hdrFields (f : HdrField) : .hdr f ∈ hdrFields := by
  cases f with
  | ftt => simp [hdrFields]
  | w32 f | w16 f | w8 f => cases f <;> simp [hdrFields]

theorem carg_mem_cargScalarFields (f : CargField) : .carg f ∈ cargScalarFields := by
  cases f with
  | major => simp [cargScalarFields]
  | w32 f | w16 f | w8 f | w1 f => cases f <;> simp [cargScalarFields]

theorem nameIn_mem_nameInFields (i : NameIndex) : .nameIn i ∈ nameInFields := by
  cases i <;> simp [nameInFields]

theorem name_mem_nameFields (i : NameIndex) : .name i ∈ nameFields := by
  cases i <;> simp [nameFields]

/-- Settles O15: FIT10 with the three names written, and with one of its read set at ⊥. -/
theorem fitTenStoresNames : Obligations.FitTenStoresNames :=
  ⟨decode_encode .fit10, fun _ _ _ _ hs => exec_fit10 hs,
    fun _ i hnone => exec_unwritten rfl (nameIn_mem_nameInFields i) hnone⟩

/-! ### The header a constructor builds (R102) -/

theorem mkHdr_tfl_toNat (c : Config) (g : CargScalars) (tcd : BitVec 16) {total : Nat} (h : total < 65536) :
    (mkHdr c g tcd total).tfl.toNat = total := by
  rw [mkHdr, BitVec.toNat_ofNat, Nat.mod_eq_of_lt (by omega)]

theorem mkHdr_bsize_toNat (c : Config) (g : CargScalars) (tcd : BitVec 16) {total : Nat} (h : total < 65536) :
    (mkHdr c g tcd total).bsize.toNat = total := by
  rw [mkHdr, BitVec.toNat_ofNat, Nat.mod_eq_of_lt (by omega)]

/-- Settles O16: the two length fields hold the total, which their widths have room for; every other field is as
assigned. -/
theorem constructorHeaderFields : Obligations.ConstructorHeaderFields := by
  intro c g tcd total htotal
  exact ⟨rfl, mkHdr_tfl_toNat c g tcd htotal, mkHdr_bsize_toNat c g tcd htotal, rfl, rfl, rfl, rfl, rfl, rfl, rfl, rfl,
    rfl, rfl, rfl, rfl, rfl, rfl, rfl, rfl, rfl, rfl, rfl, rfl, rfl, rfl, rfl, rfl⟩

/-! ### The constructors (R103 to R106) -/

section
variable {s : State} {g : CargScalars}

theorem exec_mkToken (hs : s.carg.readScalars = .ok g) :
    exec .mkToken s = .next ((s.setVariant (mkHdr s.config g s.config.typecodeToken 64) .token Names.unwritten
      none).setStatus statusOk) := by
  simp only [exec, execMkToken, hs, staged_bind_ok, staged_pure, conclude_ok]

/-- The body that MK_TRIG and MK_PREQ share, with its arguments written. -/
theorem mkParticipation_of_written {n : Bytes × Bytes × Bytes} (tcd : BitVec 16) (k : Kind)
    (hs : s.carg.readScalars = .ok g) (hn : s.carg.nameIn.read .nameIn = .ok n) :
    mkParticipation tcd k s = .ok (s.setVariant (mkHdr s.config g tcd 96) k (fittedNames n) none) := by
  simp only [mkParticipation, hs, hn, staged_bind_ok, staged_pure]

theorem conclude_mkParticipation {a b c : Bytes} {p : Option Bytes} (tcd : BitVec 16) (k : Kind)
    (hs : s.carg = Carg.ofScalars g (Names.ofStrings a b c) p) :
    conclude s (mkParticipation tcd k s) =
      .next ((s.setVariant (mkHdr s.config g tcd 96) k (fittedNames (a, b, c)) none).setStatus statusOk) := by
  rw [mkParticipation_of_written tcd k (by rw [hs]; rfl) (by rw [hs]; rfl), conclude_ok]

/-- MK_CYC with its arguments read: the range check, and then the commit. -/
theorem exec_mkCyc {p : Bytes} (hs : s.carg.readScalars = .ok g) (hp : s.carg.payloadIn = some p) :
    exec .mkCyc s = conclude s (if 65471 < p.length then .error (.raise .argOutOfRange)
      else .ok (s.setVariant (mkHdr s.config g s.config.typecodeCyclic (64 + p.length)) .cyclic Names.unwritten
        (some p))) := by
  simp only [exec, execMkCyc, hs, hp, readReg_some, staged_bind_ok, staged_pure]

theorem exec_mkCyc_fits {p : Bytes} (hs : s.carg.readScalars = .ok g) (hp : s.carg.payloadIn = some p)
    (hlen : p.length ≤ 65471) :
    exec .mkCyc s = .next ((s.setVariant (mkHdr s.config g s.config.typecodeCyclic (64 + p.length)) .cyclic
      Names.unwritten (some p)).setStatus statusOk) := by
  rw [exec_mkCyc hs hp, if_neg (Nat.not_lt.mpr hlen), conclude_ok]

theorem exec_mkCyc_tooLong {p : Bytes} (hs : s.carg.readScalars = .ok g) (hp : s.carg.payloadIn = some p)
    (hlen : 65471 < p.length) : exec .mkCyc s = .next (s.setStatus ErrorCode.argOutOfRange.code) := by
  rw [exec_mkCyc hs hp, if_pos hlen, conclude_raise]

end

theorem cargRead_of_eq {s : State} {g : CargScalars} {n : Names} {p : Option Bytes} (hs : s.carg = Carg.ofScalars g n p) :
    s.carg.readScalars = .ok g := by
  rw [hs, cargRead_ofScalars]

/-- Settles O17: MK_TOKEN with the scalars written, and with one of them at ⊥. -/
theorem mkTokenBuildsToken : Obligations.MkTokenBuildsToken :=
  ⟨decode_encode .mkToken, fun _ _ _ _ hs => exec_mkToken (cargRead_of_eq hs),
    fun _ f hnone => exec_unwritten rfl (carg_mem_cargScalarFields f) hnone⟩

/-- Settles O18: the shared body under Trigger's code, and UNWRITTEN on each part of its read set. -/
theorem mkTrigBuildsTrigger : Obligations.MkTrigBuildsTrigger :=
  ⟨decode_encode .mkTrig, fun _ _ _ _ _ _ hs => conclude_mkParticipation _ .trigger hs,
    fun _ f hnone => exec_unwritten rfl (List.mem_append_left _ (carg_mem_cargScalarFields f)) hnone,
    fun _ i hnone => exec_unwritten rfl (List.mem_append_right _ (nameIn_mem_nameInFields i)) hnone⟩

/-- Settles O19: the shared body under ParticipationRequest's code, and UNWRITTEN on each part of its read set. -/
theorem mkPreqBuildsRequest : Obligations.MkPreqBuildsRequest :=
  ⟨decode_encode .mkPreq, fun _ _ _ _ _ _ hs => conclude_mkParticipation _ .preq hs,
    fun _ f hnone => exec_unwritten rfl (List.mem_append_left _ (carg_mem_cargScalarFields f)) hnone,
    fun _ i hnone => exec_unwritten rfl (List.mem_append_right _ (nameIn_mem_nameInFields i)) hnone⟩

/-- Settles O20: MK_CYC on each side of its range check; UNWRITTEN is decided before it, on the whole read set. -/
theorem mkCycBuildsCyclic : Obligations.MkCycBuildsCyclic :=
  ⟨decode_encode .mkCyc, fun _ _ _ _ hs hlen => exec_mkCyc_fits (cargRead_of_eq hs) (by rw [hs]; rfl) hlen,
    fun _ _ _ _ hs hlen => exec_mkCyc_tooLong (cargRead_of_eq hs) (by rw [hs]; rfl) hlen,
    fun _ f hnone => exec_unwritten rfl (List.mem_append_left _ (carg_mem_cargScalarFields f)) hnone,
    fun _ hnone => exec_unwritten (r := .payloadIn) rfl (List.mem_append_right _ List.mem_cons_self)
      (congrArg (Option.map RegValue.string) hnone)⟩

end Sys2Proof.Machine
end

section
/-! PROOFS of the frame variant statements, second part: the encodes (O21, O24, O26, O28) and the decodes (O22, O25, O27,
O29) of the four variants. An encode is its KIND check, its reads and the output step; a decode is its length check and the
commit of what it reads. -/

namespace Sys2Proof.Machine

/-! ### The end of an encode (R91) -/

section
variable {f : Bytes} {s : State} {n : Nat}

theorem conclude_emit_allocate (hf : f.length = n) :
    conclude s (emit true f s) = .next { s with outBuf := f, outLen := n, status := statusOk } := by
  rw [emit_allocate_len hf, conclude_ok, State.setOutput_setStatus_eq]

theorem conclude_emit_inPlace (hf : f.length = n) (hfits : n ≤ s.outBuf.length) :
    conclude s (emit false f s) =
      .next { s with outBuf := f ++ s.outBuf.drop n, outLen := n, status := statusOk } := by
  rw [emit_inPlace_fits_len hf hfits, conclude_ok, State.setOutput_setStatus_eq]

theorem conclude_emit_short (hf : f.length = n) (hshort : s.outBuf.length < n) :
    conclude s (emit false f s) = .next (s.setStatus ErrorCode.tooShortToMarshal.code) := by
  rw [emit_inPlace_short_len hf hshort, conclude_raise]

end

/-! ### The KIND check (R139 step 2) -/

section
variable {i : Instr} {k : Kind} {s : State}

theorem kindAllows_iff (hi : requiredKind i = some k) : kindAllows i s ↔ s.kind = k := by
  simp [kindAllows, hi]

/-- An encode of another variant than KIND names ends with ILLEGAL_COMMAND, whatever its registers hold. -/
theorem exec_wrongKind (hi : requiredKind i = some k) (hk : s.kind ≠ k) :
    exec i s = .next (s.setStatus ErrorCode.illegalCommand.code) := by
  rw [exec_of_not_kindAllows ((kindAllows_iff hi).not.mpr hk), conclude_raise]

/-- An encode whose KIND check passes faults if a register of its read set holds ⊥. -/
theorem exec_unwritten_of_kind {r : Register} (hi : requiredKind i = some k) (hk : s.kind = k) (hr : r ∈ readSet i)
    (hnone : s.readRegister r = none) : ∃ q, exec i s = .fault (.unwritten q) := by
  obtain ⟨hfaults, -⟩ := unwrittenExactlyOnReadSet
  exact (hfaults i s).mpr ⟨(kindAllows_iff hi).mpr hk, r, hr, hnone⟩

end

/-! ### The encodes (R107, R111, R113, R115) -/

section
variable {s : State} {h : Header}

theorem exec_tokenEnc (hk : s.kind = .token) (hh : s.hdr = HdrReg.ofHeader h) (a : Bool) :
    exec (.tokenEnc a) s = conclude s (emit a (hdrBytes h) s) :=
  exec_eq_emit ((kindAllows_iff rfl).mpr hk) (by rw [storedFrame, hh, hdrRead_ofHeader]; rfl)

/-- The body that TRIG_ENC and PREQ_ENC share, behind its KIND check and its reads. -/
theorem participationEnc_eq_emit {k : Kind} {a b c : Bytes} (hk : s.kind = k) (hh : s.hdr = HdrReg.ofHeader h)
    (hn : s.name = Names.ofStrings a b c) (x : Bool) :
    participationEnc k x s = emit x (partBytes h (a, b, c)) s := by
  simp only [participationEnc, requireKind_pass hk, hh, hn, hdrRead_ofHeader, namesRead_ofStrings, staged_bind_ok]

theorem exec_cycEnc {p : Bytes} (hk : s.kind = .cyclic) (hh : s.hdr = HdrReg.ofHeader h) (hp : s.payload = some p)
    (a : Bool) : exec (.cycEnc a) s = conclude s (emit a (hdrBytes h ++ p) s) :=
  exec_eq_emit ((kindAllows_iff rfl).mpr hk) (by rw [storedFrame, hh, hdrRead_ofHeader, hp]; rfl)

section
variable {k : Kind} {a b c : Bytes}

theorem participationEnc_allocate (hk : s.kind = k) (hh : s.hdr = HdrReg.ofHeader h)
    (hn : s.name = Names.ofStrings a b c) :
    conclude s (participationEnc k true s) =
      .next { s with outBuf := partBytes h (a, b, c), outLen := 96, status := statusOk } := by
  rw [participationEnc_eq_emit hk hh hn, conclude_emit_allocate (partBytes_length h _)]

theorem participationEnc_inPlace (hk : s.kind = k) (hh : s.hdr = HdrReg.ofHeader h)
    (hn : s.name = Names.ofStrings a b c) (hfits : 96 ≤ s.outBuf.length) :
    conclude s (participationEnc k false s) =
      .next { s with outBuf := partBytes h (a, b, c) ++ s.outBuf.drop 96, outLen := 96, status := statusOk } := by
  rw [participationEnc_eq_emit hk hh hn, conclude_emit_inPlace (partBytes_length h _) hfits]

theorem participationEnc_short (hk : s.kind = k) (hh : s.hdr = HdrReg.ofHeader h)
    (hn : s.name = Names.ofStrings a b c) (hshort : s.outBuf.length < 96) :
    conclude s (participationEnc k false s) = .next (s.setStatus ErrorCode.tooShortToMarshal.code) := by
  rw [participationEnc_eq_emit hk hh hn, conclude_emit_short (partBytes_length h _) hshort]

end

theorem cycFrame_length (h : Header) (p : Bytes) : (hdrBytes h ++ p).length = 64 + p.length := by
  rw [List.length_append, hdrBytes_length]

end

/-- Settles O21: the output step in its three cases, the read of HDR that stops, and the KIND check that does not pass. -/
theorem tokenEncWritesFrame : Obligations.TokenEncWritesFrame :=
  ⟨decode_encode (.tokenEnc false), decode_encode (.tokenEnc true),
    fun _ h hk hh => (exec_tokenEnc hk hh true).trans (conclude_emit_allocate (hdrBytes_length h)),
    fun _ h hk hh hfits => (exec_tokenEnc hk hh false).trans (conclude_emit_inPlace (hdrBytes_length h) hfits),
    fun _ h hk hh hshort => (exec_tokenEnc hk hh false).trans (conclude_emit_short (hdrBytes_length h) hshort),
    fun _ _ f hk hnone => exec_unwritten_of_kind rfl hk (hdr_mem_hdrFields f) hnone,
    fun _ _ hk => exec_wrongKind rfl hk⟩

/-- Settles O24: the shared body with KIND = TRIGGER, UNWRITTEN on each part of its read set, and another KIND. -/
theorem trigEncWritesFrame : Obligations.TrigEncWritesFrame :=
  ⟨decode_encode (.trigEnc false), decode_encode (.trigEnc true),
    fun _ _ _ _ _ hk hh hn => participationEnc_allocate hk hh hn,
    fun _ _ _ _ _ hk hh hn hfits => participationEnc_inPlace hk hh hn hfits,
    fun _ _ _ _ _ hk hh hn hshort => participationEnc_short hk hh hn hshort,
    fun _ _ f hk hnone => exec_unwritten_of_kind rfl hk (List.mem_append_left _ (hdr_mem_hdrFields f)) hnone,
    fun _ _ i hk hnone => exec_unwritten_of_kind rfl hk (List.mem_append_right _ (name_mem_nameFields i)) hnone,
    fun _ _ hk => exec_wrongKind rfl hk⟩

/-- Settles O26: the shared body with KIND = PREQ, UNWRITTEN on each part of its read set, and another KIND. -/
theorem preqEncWritesFrame : Obligations.PreqEncWritesFrame :=
  ⟨decode_encode (.preqEnc false), decode_encode (.preqEnc true),
    fun _ _ _ _ _ hk hh hn => participationEnc_allocate hk hh hn,
    fun _ _ _ _ _ hk hh hn hfits => participationEnc_inPlace hk hh hn hfits,
    fun _ _ _ _ _ hk hh hn hshort => participationEnc_short hk hh hn hshort,
    fun _ _ f hk hnone => exec_unwritten_of_kind rfl hk (List.mem_append_left _ (hdr_mem_hdrFields f)) hnone,
    fun _ _ i hk hnone => exec_unwritten_of_kind rfl hk (List.mem_append_right _ (name_mem_nameFields i)) hnone,
    fun _ _ hk => exec_wrongKind rfl hk⟩

/-- Settles O28: the frame is as long as HDR and PAYLOAD are, and no length field of HDR is looked at. -/
theorem cycEncWritesFrame : Obligations.CycEncWritesFrame :=
  ⟨decode_encode (.cycEnc false), decode_encode (.cycEnc true),
    fun _ h p hk hh hp => (exec_cycEnc hk hh hp true).trans (conclude_emit_allocate (cycFrame_length h p)),
    fun _ h p hk hh hp hfits => (exec_cycEnc hk hh hp false).trans (conclude_emit_inPlace (cycFrame_length h p) hfits),
    fun _ h p hk hh hp hshort => (exec_cycEnc hk hh hp false).trans (conclude_emit_short (cycFrame_length h p) hshort),
    fun _ _ f hk hnone => exec_unwritten_of_kind rfl hk (List.mem_append_left _ (hdr_mem_hdrFields f)) hnone,
    fun _ _ hk hnone => exec_unwritten_of_kind (r := .payload) rfl hk (List.mem_append_right _ List.mem_cons_self)
      (congrArg (Option.map RegValue.string) hnone),
    fun _ _ hk => exec_wrongKind rfl hk⟩

/-! ### The decodes (R108, R112, R114, R116) -/

/-- The end of a decode of n bytes or more, on each side of its length check. -/
theorem conclude_decode {n : Nat} {s : State} {f : Unit → State} (hlen : n ≤ s.inBuf.length) :
    conclude s (requireInput n s >>= fun x => pure (f x)) = .next ((f ()).setStatus statusOk) := by
  rw [requireInput_pass hlen, staged_bind_ok, staged_pure, conclude_ok]

theorem conclude_decode_short {n : Nat} {s : State} {f : Unit → State} (hlen : s.inBuf.length < n) :
    conclude s (requireInput n s >>= fun x => pure (f x)) = .next (s.setStatus ErrorCode.tooShortToParse.code) := by
  rw [requireInput_stop hlen, staged_bind_error, conclude_raise]

/-- Settles O22: TOKEN_DEC on each side of its length check. -/
theorem tokenDecReadsFrame : Obligations.TokenDecReadsFrame :=
  ⟨decode_encode .tokenDec, fun _ hlen => conclude_decode hlen, fun _ hlen => conclude_decode_short hlen⟩

/-- Settles O25: TRIG_DEC on each side of its length check. -/
theorem trigDecReadsFrame : Obligations.TrigDecReadsFrame :=
  ⟨decode_encode .trigDec, fun _ hlen => conclude_decode hlen, fun _ hlen => conclude_decode_short hlen⟩

/-- Settles O27: PREQ_DEC on each side of its length check. -/
theorem preqDecReadsFrame : Obligations.PreqDecReadsFrame :=
  ⟨decode_encode .preqDec, fun _ hlen => conclude_decode hlen, fun _ hlen => conclude_decode_short hlen⟩

/-- Settles O29: CYC_DEC on each side of its length check. -/
theorem cycDecReadsFrame : Obligations.CycDecReadsFrame :=
  ⟨decode_encode .cycDec, fun _ hlen => conclude_decode hlen, fun _ hlen => conclude_decode_short hlen⟩

end Sys2Proof.Machine
end

section
/-! PROOFS of the frame variant statements, third part: the round trips of the variants (O30 to O32), what a decode depends
on (O45), and the lengths a constructor sets (O47). -/

namespace Sys2Proof.Machine

/-! ### The parts of a frame -/

/-- A header is read back from its frame, whatever body follows it (R90). -/
theorem hdrParse_hdrBytes_append (h : Header) (body : Bytes) : hdrParse (hdrBytes h ++ body) = h := by
  rw [← hdrParse_take, List.take_append_of_le_length (hdrBytes_length h).ge, hdrParse_take, hdrParse_hdrBytes]

theorem drop_hdrBytes_append (h : Header) (body : Bytes) : (hdrBytes h ++ body).drop 64 = body := by
  rw [List.drop_append_of_le_length (hdrBytes_length h).ge, List.drop_of_length_le (hdrBytes_length h).le,
    List.nil_append]

theorem hdrParse_partBytes (h : Header) (n : Bytes × Bytes × Bytes) : hdrParse (partBytes h n) = h := by
  simp only [partBytes, List.append_assoc, hdrParse_hdrBytes_append]

/-- The names of a participation frame are the fitted ones (R109, R110). -/
theorem partNames_partBytes (h : Header) (a b c : Bytes) :
    partNames (partBytes h (a, b, c)) = Names.ofStrings (fit10 a) (fit10 b) (fit10 c) := by
  obtain ⟨-, -, hnode, hvendor, hmanufacturer, -⟩ := participationLayout h a b c
  rw [partNames, hnode, hvendor, hmanufacturer]

/-- 96 bytes are a header, three names and two reserved bytes, which are at 94 and 95 (R68). -/
theorem participation_split {B : Bytes} (hlen : B.length = 96) :
    B = B.take 64 ++ (memReadBytes B 64 30 ++ [B.getD 94 0, B.getD 95 0]) := by
  have hreserved : [B.getD 94 0, B.getD 95 0] = memReadBytes B 94 2 := by
    rw [memReadBytes_succ (by omega), memReadBytes_succ (by omega)]
    rfl
  have hbody : memReadBytes B 64 32 = B.drop 64 := List.take_of_length_le (by rw [List.length_drop]; omega)
  rw [hreserved, memReadBytes_append rfl, hbody, List.take_append_drop]

/-- The frame of a parsed participation frame is its bytes with the four reserved ones written 0 (R121). -/
theorem partBytes_hdrParse {B : Bytes} (hlen : B.length = 96) :
    partBytes (hdrParse B) (memReadBytes B 64 10, memReadBytes B 74 10, memReadBytes B 84 10) =
      (((B.set 38 0x00#8).set 39 0x00#8).set 94 0x00#8).set 95 0x00#8 := by
  have hname : ∀ {off}, off ≤ 84 → fit10 (memReadBytes B off 10) = memReadBytes B off 10 := fun hoff =>
    fit10_of_length (memReadBytes_length (by omega))
  have hframe : partBytes (hdrParse B) (memReadBytes B 64 10, memReadBytes B 74 10, memReadBytes B 84 10) =
      ((B.take 64).set 38 0x00#8).set 39 0x00#8 ++ (memReadBytes B 64 30 ++ [0x00#8, 0x00#8]) := by
    rw [partBytes, hname (by norm_num), hname (by norm_num), hname (by norm_num), hdrBytes_hdrParse (by omega),
      List.append_assoc _ _ (memReadBytes B 74 10), memReadBytes_append rfl, List.append_assoc _ _ (memReadBytes B 84 10),
      memReadBytes_append rfl, List.append_assoc]
    rfl
  have hhead : (B.take 64).length = 64 := by rw [List.length_take]; omega
  have hnames : (memReadBytes B 64 30).length = 30 := memReadBytes_length (by omega)
  rw [hframe]
  conv_rhs => rw [participation_split hlen]
  simp [hhead, hnames]

/-! ### LOOPBACK of an allocated frame (R79) -/

/-- With A = 1 OUT_BUF is the frame and no more, so LOOPBACK moves it whole. -/
theorem hostLoopback_of_whole {t : State} (hlen : t.outBuf.length = t.outLen) (hmax : t.outLen ≤ t.config.maxBufLen) :
    hostLoopback t = .next (t.setInBuf t.outBuf) := by
  rw [hostLoopback_of_fits hlen.ge hmax, List.take_of_length_le hlen.le]
  rfl

/-! ### The round trips (R120, R121, R122) -/

/-- Settles O30: record first, the header alone is the frame; bytes first, 64 bytes whose reserved ones are 0 come back. -/
theorem tokenRoundTrip : Obligations.TokenRoundTrip := by
  refine ⟨fun s h hc hk hh => ?_, fun s hlen h38 h39 => ?_⟩
  · have henc := (exec_tokenEnc hk hh true).trans (conclude_emit_allocate (hdrBytes_length h))
    have hmax : 64 ≤ s.config.maxBufLen := le_trans (by norm_num) (maxBufLen_of_legal hc)
    obtain ⟨-, hdec, -⟩ := tokenDecReadsFrame
    refine ⟨_, _, _, henc, hostLoopback_of_whole (hdrBytes_length h) hmax, hdec _ (hdrBytes_length h).ge, ?_, rfl⟩
    exact (congrArg HdrReg.ofHeader (hdrParse_hdrBytes h)).trans hh.symm
  · have hbytes := hdrBytes_length (hdrParse s.inBuf)
    exact ⟨_, _, conclude_decode hlen.ge, (exec_tokenEnc rfl rfl true).trans (conclude_emit_allocate hbytes),
      hdrBytes_hdrParse_of_reserved hlen h38 h39⟩

/-- The record-first round trip that Trigger and ParticipationRequest share: only KIND differs. -/
theorem participation_recordFirst {k : Kind} (s : State) (h : Header) (a b c : Bytes) (hlegal : s.config.legal = true)
    (hk : s.kind = k) (hh : s.hdr = HdrReg.ofHeader h) (hn : s.name = Names.ofStrings a b c) :
    ∃ t u v, conclude s (participationEnc k true s) = .next t ∧ hostLoopback t = .next u ∧
      conclude u (participationDec k u) = .next v ∧ v.hdr = s.hdr ∧ v.kind = k ∧
      v.name = Names.ofStrings (fit10 a) (fit10 b) (fit10 c) ∧
      (a.length = 10 → b.length = 10 → c.length = 10 → v.name = s.name) := by
  have hlen := partBytes_length h (a, b, c)
  have hname := partNames_partBytes h a b c
  refine ⟨_, _, _, participationEnc_allocate hk hh hn, hostLoopback_of_whole hlen (maxBufLen_of_legal hlegal),
    conclude_decode hlen.ge, ?_, rfl, hname, fun ha hb hc => ?_⟩
  · exact (congrArg HdrReg.ofHeader (hdrParse_partBytes h _)).trans hh.symm
  · rw [fit10_of_length ha, fit10_of_length hb, fit10_of_length hc] at hname
    exact hname.trans hn.symm

/-- The bytes-first round trip that Trigger and ParticipationRequest share. -/
theorem participation_bytesFirst {k : Kind} (s : State) (hlen : s.inBuf.length = 96) :
    ∃ t u, conclude s (participationDec k s) = .next t ∧ conclude t (participationEnc k true t) = .next u ∧
      u.outBuf = (((s.inBuf.set 38 0x00#8).set 39 0x00#8).set 94 0x00#8).set 95 0x00#8 :=
  ⟨_, _, conclude_decode hlen.ge, participationEnc_allocate rfl rfl rfl, partBytes_hdrParse hlen⟩

/-- Settles O31: both directions, for the two variants that share them. -/
theorem participationRoundTrip : Obligations.ParticipationRoundTrip :=
  ⟨participation_recordFirst, participation_recordFirst, participation_bytesFirst, participation_bytesFirst⟩

/-- CYC_DEC of a header's frame and a body: the body is the payload, to its last byte (R116). -/
theorem exec_cycDec_frame {s : State} {h : Header} {body : Bytes} (hs : s.inBuf = hdrBytes h ++ body) :
    exec .cycDec s = .next ((s.setVariant h .cyclic Names.unwritten (some body)).setStatus statusOk) := by
  have hlen : 64 ≤ s.inBuf.length := by rw [hs, cycFrame_length]; omega
  calc exec .cycDec s
      = .next ((s.setVariant (hdrParse s.inBuf) .cyclic Names.unwritten (some (s.inBuf.drop 64))).setStatus statusOk) :=
        conclude_decode hlen
    _ = _ := by rw [hs, hdrParse_hdrBytes_append, drop_hdrBytes_append]

/-- Settles O32: the body CYC_DEC takes is PAYLOAD, or PAYLOAD and the bytes appended. -/
theorem cyclicRoundTripAndItsLimit : Obligations.CyclicRoundTripAndItsLimit := by
  intro s h p g hk hh hp hmax
  have henc := (exec_cycEnc hk hh hp true).trans (conclude_emit_allocate (cycFrame_length h p))
  exact ⟨_, _, _, _, henc, hostLoopback_of_whole (cycFrame_length h p) hmax, exec_cycDec_frame rfl, hh.symm, hp.symm, rfl,
    exec_cycDec_frame (List.append_assoc _ _ _), rfl, hh.symm⟩

/-! ### What a decode depends on (R124) -/

/-- Two operations, the one run from s and the other from u, stage the same variant register or end with the same error. -/
inductive SameDecode (s u : State) : Staged → Staged → Prop
  | commits (h : Header) (k : Kind) (n : Names) (p : Option Bytes) :
      SameDecode s u (.ok (s.setVariant h k n p)) (.ok (u.setVariant h k n p))
  | raises (e : ErrorCode) : SameDecode s u (.error (.raise e)) (.error (.raise e))
  | raisesWrapped (e : ErrorCode) : SameDecode s u (.error (.raiseWrapped e)) (.error (.raiseWrapped e))

theorem statusWrapped_ne_statusOk (e : ErrorCode) : statusWrapped e ≠ statusOk := by
  cases e <;> decide

section
variable {s u : State} {x y : Staged}

/-- Neither decode faults; they end with one STATUS, and where it is OK with one variant register. -/
theorem SameDecode.conclude (h : SameDecode s u x y) :
    ∃ t v, Machine.conclude s x = .next t ∧ Machine.conclude u y = .next v ∧ t.status = v.status ∧
      (t.status = statusOk → t.hdr = v.hdr ∧ t.kind = v.kind ∧ t.name = v.name ∧ t.payload = v.payload) := by
  cases h with
  | commits h k n p => exact ⟨_, _, rfl, rfl, rfl, fun _ => ⟨rfl, rfl, rfl, rfl⟩⟩
  | raises e => exact ⟨_, _, rfl, rfl, rfl, fun hok => absurd hok (errorCode_ne_statusOk e)⟩
  | raisesWrapped e => exact ⟨_, _, rfl, rfl, rfl, fun hok => absurd hok (statusWrapped_ne_statusOk e)⟩

theorem SameDecode.wrapFailure (h : SameDecode s u x y) :
    SameDecode s u (Machine.wrapFailure x) (Machine.wrapFailure y) := by
  cases h with
  | commits h k n p => exact .commits h k n p
  | raises e => exact .raisesWrapped e
  | raisesWrapped e => exact .raisesWrapped e

theorem SameDecode.ite {p : Prop} [Decidable p] {x' y' : Staged} (h : SameDecode s u x y) (h' : SameDecode s u x' y') :
    SameDecode s u (if p then x else x') (if p then y else y') := by
  split
  · exact h
  · exact h'

/-- The length check looks at IN_BUF alone, so two decodes of the same bytes pass it or stop there together. -/
theorem sameDecode_requireInput {n : Nat} {f g : Unit → Staged} (hin : s.inBuf = u.inBuf)
    (h : SameDecode s u (f ()) (g ())) : SameDecode s u (requireInput n s >>= f) (requireInput n u >>= g) := by
  by_cases hlen : n ≤ s.inBuf.length
  · rw [requireInput_pass hlen, requireInput_pass (hin ▸ hlen)]
    exact h
  · rw [requireInput_stop (Nat.not_le.mp hlen), requireInput_stop (hin ▸ Nat.not_le.mp hlen)]
    exact .raises _

/-- A decode parses its header from IN_BUF, so it commits the same if its names and its payload are the same. -/
theorem sameDecode_commit {n : Nat} {k : Kind} {names names' : Names} {payload payload' : Option Bytes}
    (hin : s.inBuf = u.inBuf) (hnames : names = names') (hpayload : payload = payload') :
    SameDecode s u (requireInput n s >>= fun _ => pure (s.setVariant (hdrParse s.inBuf) k names payload))
      (requireInput n u >>= fun _ => pure (u.setVariant (hdrParse u.inBuf) k names' payload')) :=
  sameDecode_requireInput hin (by rw [hin, hnames, hpayload]; exact .commits _ _ _ _)

theorem sameDecode_tokenDecBody (hin : s.inBuf = u.inBuf) : SameDecode s u (tokenDecBody s) (tokenDecBody u) :=
  sameDecode_commit hin rfl rfl

theorem sameDecode_participationDec (k : Kind) (hin : s.inBuf = u.inBuf) :
    SameDecode s u (participationDec k s) (participationDec k u) :=
  sameDecode_commit hin (congrArg partNames hin) rfl

end

/-- Each decode of the same IN_BUF stages the same; PARSE selects by IN_BUF and the configuration (R132). -/
theorem exec_sameDecode {i : Instr} {s u : State} (hi : i ∈ decodeOperations) (hin : s.inBuf = u.inBuf)
    (hconfig : s.config = u.config) : ∃ x y, exec i s = conclude s x ∧ exec i u = conclude u y ∧ SameDecode s u x y := by
  simp only [decodeOperations, List.mem_cons, List.not_mem_nil, or_false] at hi
  rcases hi with rfl | rfl | rfl | rfl | rfl | rfl
  · exact ⟨_, _, rfl, rfl, sameDecode_commit hin rfl rfl⟩
  · exact ⟨_, _, rfl, rfl, sameDecode_tokenDecBody hin⟩
  · exact ⟨_, _, rfl, rfl, sameDecode_participationDec .trigger hin⟩
  · exact ⟨_, _, rfl, rfl, sameDecode_participationDec .preq hin⟩
  · exact ⟨_, _, rfl, rfl, sameDecode_commit hin rfl (congrArg (fun B => some (B.drop 64)) hin)⟩
  · refine ⟨_, _, rfl, rfl, sameDecode_requireInput hin ?_⟩
    rw [hin, hconfig]
    exact (sameDecode_tokenDecBody hin).wrapFailure.ite
      ((sameDecode_participationDec .trigger hin).wrapFailure.ite (.raises _))

/-- Settles O45: the same writes staged, or the same error. -/
theorem decodesDependOnInputAlone : Obligations.DecodesDependOnInputAlone := by
  intro i s u hi hin hconfig
  obtain ⟨x, y, hx, hy, hsame⟩ := exec_sameDecode hi hin hconfig
  rw [hx, hy]
  exact hsame.conclude

/-! ### The lengths a constructor sets (R118, R119) -/

/-- An operation that ends with STATUS = OK has committed what it staged. -/
theorem conclude_status_ok {s t : State} {op : Staged} (h : conclude s op = .next t) (ht : t.status = statusOk) :
    ∃ u, op = .ok u ∧ t = u.setStatus statusOk := by
  rcases conclude_eq_next h with hu | ⟨e, -, rfl⟩ | ⟨e, -, rfl⟩
  · exact hu
  · exact absurd ht (errorCode_ne_statusOk e)
  · exact absurd ht (statusWrapped_ne_statusOk e)

/-- What R119 asks of an encode from t: it succeeds, and its OUT_LEN is what TFL and BSIZE hold. -/
def ProducesStatedLength (t : State) (o : Host.Outcome State Fault Refusal) : Prop :=
  ∃ u, o = .next u ∧ u.status = 0x00#8 ∧ u.outBuf.length = u.outLen ∧
    t.hdr.tfl.map BitVec.toNat = some u.outLen ∧ t.hdr.bsize.map BitVec.toNat = some u.outLen

/-- If the header is one that a constructor built for the frame's length, the allocating encode of the frame sets OUT_LEN
to what TFL and BSIZE hold. -/
theorem producesStatedLength_of_emit {t : State} {c : Config} {g : CargScalars} {tcd : BitVec 16} {n : Nat} {f : Bytes}
    {o : Host.Outcome State Fault Refusal} (ho : o = conclude t (emit true f t)) (hf : f.length = n) (hn : n < 65536)
    (hhdr : t.hdr = HdrReg.ofHeader (mkHdr c g tcd n)) : ProducesStatedLength t o := by
  rw [ProducesStatedLength, hhdr]
  exact ⟨_, ho.trans (conclude_emit_allocate hf), rfl, hf, congrArg some (mkHdr_tfl_toNat c g tcd hn),
    congrArg some (mkHdr_bsize_toNat c g tcd hn)⟩

/-- The constructor and the encode of the two participation variants, which differ in the type code and in KIND. -/
theorem participation_constructed {tcd : BitVec 16} {k : Kind} {s t : State}
    (h : conclude s (mkParticipation tcd k s) = .next t) (ht : t.status = 0x00#8) :
    t.kind = k ∧ ProducesStatedLength t (conclude t (participationEnc k true t)) := by
  obtain ⟨u, hu, rfl⟩ := conclude_status_ok h ht
  simp only [mkParticipation, staged_bind_eq_ok, staged_pure, Except.ok.injEq] at hu
  obtain ⟨g, -, n, -, rfl⟩ := hu
  exact ⟨rfl, producesStatedLength_of_emit (congrArg _ (participationEnc_eq_emit rfl rfl rfl true)) (partBytes_length _ _)
    (by norm_num) rfl⟩

theorem token_constructed {s t : State} (h : exec .mkToken s = .next t) (ht : t.status = 0x00#8) :
    t.kind = .token ∧ ProducesStatedLength t (exec (.tokenEnc true) t) := by
  obtain ⟨u, hu, rfl⟩ := conclude_status_ok h ht
  simp only [staged_bind_eq_ok, staged_pure, Except.ok.injEq] at hu
  obtain ⟨g, -, rfl⟩ := hu
  exact ⟨rfl, producesStatedLength_of_emit (exec_tokenEnc rfl rfl true) (hdrBytes_length _) (by norm_num) rfl⟩

/-- The range check of MK_CYC keeps the frame's length within BSIZE (R106). -/
theorem cyclic_constructed {s t : State} (h : exec .mkCyc s = .next t) (ht : t.status = 0x00#8) :
    t.kind = .cyclic ∧ ProducesStatedLength t (exec (.cycEnc true) t) := by
  obtain ⟨u, hu, rfl⟩ := conclude_status_ok h ht
  simp only [staged_bind_eq_ok] at hu
  obtain ⟨g, -, p, -, hu⟩ := hu
  split at hu
  · cases hu
  · next hlen =>
    cases hu
    exact ⟨rfl, producesStatedLength_of_emit (exec_cycEnc rfl rfl rfl true) (cycFrame_length _ p)
      (by simp only [Config.maxPayloadLen] at hlen; omega) rfl⟩

/-- Settles O47: constructor by constructor, with the encode of its variant. -/
theorem constructorsKeepLengthsConsistent : Obligations.ConstructorsKeepLengthsConsistent := by
  intro c e k s t hmem h ht
  simp only [constructors, List.mem_cons, List.not_mem_nil, or_false, Prod.mk.injEq] at hmem
  rcases hmem with ⟨rfl, rfl, rfl⟩ | ⟨rfl, rfl, rfl⟩ | ⟨rfl, rfl, rfl⟩ | ⟨rfl, rfl, rfl⟩
  · exact token_constructed h ht
  · exact participation_constructed h ht
  · exact participation_constructed h ht
  · exact cyclic_constructed h ht

end Sys2Proof.Machine
end

section
/-! PROOFS of the dispatcher statements: every case of PARSE (O33), what its selection depends on (O34), and the round trip
from a constructor to PARSE (O35). PARSE is a length check, the selection by the type code, and the selected decode. -/

namespace Sys2Proof.Machine

/-! ### The type code (R62) -/

/-- The type code PARSE selects on is the TCD that a decode of the buffer commits. -/
theorem typeCode_eq_tcd (B : Bytes) : typeCode B = (hdrParse B).tcd := rfl

theorem typeCode_eq_iff {B : Bytes} {v : BitVec 16} : typeCode B = v ↔ memRead B 40 2 = v.toNat := by
  rw [← BitVec.toNat_inj, typeCode, toNat_ofNat_memRead le_rfl]

/-- Two buffers with the same bytes in a range are read alike there. -/
theorem memReadBytes_congr {B C : Bytes} {off n : Nat} (h : ∀ k < n, readByte B (off + k) = readByte C (off + k)) :
    memReadBytes B off n = memReadBytes C off n := by
  refine List.ext_getElem? fun k => ?_
  change readByte (memReadBytes B off n) k = readByte (memReadBytes C off n) k
  rcases Nat.lt_or_ge k n with hk | hk
  · rw [readByte_memReadBytes hk, readByte_memReadBytes hk, h k hk]
  · have hout : ∀ D, readByte (memReadBytes D off n) k = none := fun D =>
      readByte_of_length_le ((List.length_take_le n _).trans hk)
    rw [hout, hout]

theorem typeCode_congr {B C : Bytes} (h40 : readByte B 40 = readByte C 40) (h41 : readByte B 41 = readByte C 41) :
    typeCode B = typeCode C := by
  have hrange : memReadBytes B 40 2 = memReadBytes C 40 2 := memReadBytes_congr fun k hk => by
    interval_cases k
    · exact h40
    · exact h41
  rw [typeCode, typeCode, memRead, memRead, hrange]

/-- A legal configuration's two dispatched codes differ, so at most one row of the table matches (R7, R127). -/
theorem typecodes_distinct_of_legal {c : Config} (hc : c.legal = true) : c.typecodeTrigger ≠ c.typecodeToken := by
  obtain ⟨-, -, hdistinct, -, -⟩ := (config_legal_iff c).mp hc
  exact hdistinct

/-! ### The cases of PARSE (R128, R129, R130) -/

section
variable {s : State}

/-- The end of the selected decode, which keeps its success as it is. -/
theorem conclude_wrapFailure_decode {n : Nat} {f : Unit → State} (hlen : n ≤ s.inBuf.length) :
    conclude s (wrapFailure (requireInput n s >>= fun x => pure (f x))) = .next ((f ()).setStatus statusOk) := by
  rw [requireInput_pass hlen, staged_bind_ok, staged_pure, wrapFailure_ok, conclude_ok]

/-- The error of the selected decode carries the context mark. -/
theorem conclude_wrapFailure_decode_short {n : Nat} {f : Unit → State} (hlen : s.inBuf.length < n) :
    conclude s (wrapFailure (requireInput n s >>= fun x => pure (f x))) =
      .next (s.setStatus (statusWrapped .tooShortToParse)) := by
  rw [requireInput_stop hlen, staged_bind_error, wrapFailure_raise, conclude_raiseWrapped]

/-- PARSE's own length check is not wrapped. -/
theorem exec_parse_short (hlen : s.inBuf.length < 64) :
    exec .parse s = .next (s.setStatus ErrorCode.tooShortToParse.code) := by
  rw [exec, execParse, requireInput_stop hlen, staged_bind_error, conclude_raise]

/-- Behind its length check PARSE is the selection by the closed table of R126. -/
theorem exec_parse_eq_select (hlen : 64 ≤ s.inBuf.length) :
    exec .parse s = conclude s (if typeCode s.inBuf = s.config.typecodeToken then wrapFailure (tokenDecBody s)
      else if typeCode s.inBuf = s.config.typecodeTrigger then wrapFailure (participationDec .trigger s)
      else .error (.raise .notImplemented)) := by
  rw [exec, execParse, requireInput_pass hlen, staged_bind_ok]

theorem exec_parse_token (hlen : 64 ≤ s.inBuf.length) (hcode : typeCode s.inBuf = s.config.typecodeToken) :
    exec .parse s = .next ((s.setVariant (hdrParse s.inBuf) .token Names.unwritten none).setStatus statusOk) := by
  rw [exec_parse_eq_select hlen, if_pos hcode]
  exact conclude_wrapFailure_decode hlen

section
variable (hnot : typeCode s.inBuf ≠ s.config.typecodeToken)
include hnot

theorem exec_parse_trigger (hlen : 96 ≤ s.inBuf.length) (hcode : typeCode s.inBuf = s.config.typecodeTrigger) :
    exec .parse s =
      .next ((s.setVariant (hdrParse s.inBuf) .trigger (partNames s.inBuf) none).setStatus statusOk) := by
  rw [exec_parse_eq_select (by omega), if_neg hnot, if_pos hcode]
  exact conclude_wrapFailure_decode hlen

/-- A buffer that holds a header and no whole Trigger. -/
theorem exec_parse_trigger_short (hlen : 64 ≤ s.inBuf.length) (hshort : s.inBuf.length < 96)
    (hcode : typeCode s.inBuf = s.config.typecodeTrigger) :
    exec .parse s = .next (s.setStatus (statusWrapped .tooShortToParse)) := by
  rw [exec_parse_eq_select hlen, if_neg hnot, if_pos hcode]
  exact conclude_wrapFailure_decode_short hshort

theorem exec_parse_notImplemented (hlen : 64 ≤ s.inBuf.length)
    (hcode : typeCode s.inBuf ≠ s.config.typecodeTrigger) :
    exec .parse s = .next (s.setStatus ErrorCode.notImplemented.code) := by
  rw [exec_parse_eq_select hlen, if_neg hnot, if_neg hcode, conclude_raise]

end

end

/-- Settles O33: PARSE case by case; under a legal configuration Trigger's code is not Token's. -/
theorem parseDispatches : Obligations.ParseDispatches := by
  have hnot : ∀ {s : State}, s.config.legal = true → memRead s.inBuf 40 2 = s.config.typecodeTrigger.toNat →
      typeCode s.inBuf ≠ s.config.typecodeToken := fun hc hcode =>
    typeCode_eq_iff.mpr hcode ▸ typecodes_distinct_of_legal hc
  exact ⟨decode_encode .parse, fun _ hlen => exec_parse_short hlen,
    fun _ _ hlen hcode => exec_parse_token hlen (typeCode_eq_iff.mpr hcode),
    fun _ hc hlen hcode => exec_parse_trigger (hnot hc hcode) hlen (typeCode_eq_iff.mpr hcode),
    fun _ hc hlen hshort hcode => exec_parse_trigger_short (hnot hc hcode) hlen hshort (typeCode_eq_iff.mpr hcode),
    fun _ _ hlen htoken htrigger =>
      exec_parse_notImplemented (typeCode_eq_iff.not.mpr htoken) hlen (typeCode_eq_iff.not.mpr htrigger)⟩

/-! ### What the selection depends on (R132) -/

/-- STATUS and KIND after PARSE, from KIND before it and of IN_BUF only its length and its type code. -/
def parseVerdict (c : Config) (k : Kind) (len : Nat) (code : BitVec 16) : BitVec 8 × Kind :=
  if len < 64 then (ErrorCode.tooShortToParse.code, k)
  else if code = c.typecodeToken then (statusOk, .token)
  else if code = c.typecodeTrigger then
    if len < 96 then (statusWrapped .tooShortToParse, k) else (statusOk, .trigger)
  else (ErrorCode.notImplemented.code, k)

/-- PARSE answers a next state from every state, with the verdict's STATUS and KIND. -/
theorem exec_parse_verdict (s : State) :
    ∃ t, exec .parse s = .next t ∧
      (t.status, t.kind) = parseVerdict s.config s.kind s.inBuf.length (typeCode s.inBuf) := by
  unfold parseVerdict
  split_ifs with hlen htoken htrigger hshort
  · exact ⟨_, exec_parse_short hlen, rfl⟩
  · exact ⟨_, exec_parse_token (Nat.not_lt.mp hlen) htoken, rfl⟩
  · exact ⟨_, exec_parse_trigger_short htoken (Nat.not_lt.mp hlen) hshort htrigger, rfl⟩
  · exact ⟨_, exec_parse_trigger htoken (Nat.not_lt.mp hshort) htrigger, rfl⟩
  · exact ⟨_, exec_parse_notImplemented htoken (Nat.not_lt.mp hlen) htrigger, rfl⟩

/-- Settles O34: the two runs have one verdict, since the lengths and the type codes agree. -/
theorem parseSelectsOnTypeCodeAlone : Obligations.ParseSelectsOnTypeCodeAlone := by
  intro s B hlen h40 h41
  obtain ⟨t, ht, hverdict⟩ := exec_parse_verdict s
  obtain ⟨u, hu, hverdict'⟩ := exec_parse_verdict { s with inBuf := B }
  rw [hlen, typeCode_congr h40 h41, ← hverdict] at hverdict'
  obtain ⟨hstatus, hkind⟩ := Prod.mk.inj hverdict'
  exact ⟨t, u, ht, hu, hstatus, hkind⟩

/-! ### From a constructor to PARSE (R133) -/

section
variable {s : State} {h : Header}

/-- PARSE of a Token's frame: the header's bytes under Token's code. -/
theorem exec_parse_tokenFrame (hin : s.inBuf = hdrBytes h) (hcode : h.tcd = s.config.typecodeToken) :
    exec .parse s = .next ((s.setVariant h .token Names.unwritten none).setStatus statusOk) := by
  have hparse : hdrParse s.inBuf = h := by rw [hin, hdrParse_hdrBytes]
  have hlen : 64 ≤ s.inBuf.length := by rw [hin, hdrBytes_length]
  rw [exec_parse_token hlen (by rw [typeCode_eq_tcd, hparse, hcode]), hparse]

/-- PARSE of a Trigger's frame, whose names it takes as they were fitted. -/
theorem exec_parse_triggerFrame {a b c : Bytes} (hc : s.config.legal = true) (hin : s.inBuf = partBytes h (a, b, c))
    (hcode : h.tcd = s.config.typecodeTrigger) :
    exec .parse s = .next ((s.setVariant h .trigger (fittedNames (a, b, c)) none).setStatus statusOk) := by
  have hparse : hdrParse s.inBuf = h := by rw [hin, hdrParse_partBytes]
  have hnames : partNames s.inBuf = fittedNames (a, b, c) := by rw [hin, partNames_partBytes]; rfl
  have hlen : 96 ≤ s.inBuf.length := by rw [hin, partBytes_length]
  have htrigger : typeCode s.inBuf = s.config.typecodeTrigger := by rw [typeCode_eq_tcd, hparse, hcode]
  rw [exec_parse_trigger (htrigger ▸ typecodes_distinct_of_legal hc) hlen htrigger, hparse, hnames]

end

/-- A fitted name fits as it is, so a second fit changes no name (R100). -/
theorem fittedNames_fit10 (a b c : Bytes) : fittedNames (fit10 a, fit10 b, fit10 c) = fittedNames (a, b, c) := by
  simp only [fittedNames, fit10_of_length (fit10_length _)]

/-- Settles O35: the constructor sets the type code that PARSE selects on, and the frame carries it with the header and the
fitted names. -/
theorem dispatchEndToEnd : Obligations.DispatchEndToEnd := by
  obtain ⟨-, -, htokenEnc, -⟩ := tokenEncWritesFrame
  obtain ⟨-, -, htrigEnc, -⟩ := trigEncWritesFrame
  refine ⟨fun s g n p hc hs => ?_, fun s g a b c p hc hs => ?_⟩
  · have hlen := hdrBytes_length (mkHdr s.config g s.config.typecodeToken 64)
    have hmax : 64 ≤ s.config.maxBufLen := le_trans (by norm_num) (maxBufLen_of_legal hc)
    exact ⟨_, _, _, _, exec_mkToken (cargRead_of_eq hs), htokenEnc _ _ rfl rfl, hostLoopback_of_whole hlen hmax,
      exec_parse_tokenFrame rfl rfl, rfl, rfl, rfl⟩
  · have hlen := partBytes_length (mkHdr s.config g s.config.typecodeTrigger 96) (fit10 a, fit10 b, fit10 c)
    have hmax : 96 ≤ s.config.maxBufLen := maxBufLen_of_legal hc
    exact ⟨_, _, _, _, conclude_mkParticipation _ .trigger hs, htrigEnc _ _ _ _ _ rfl rfl rfl,
      hostLoopback_of_whole hlen hmax, exec_parse_triggerFrame hc rfl rfl, rfl, rfl, rfl, fittedNames_fit10 a b c⟩

end Sys2Proof.Machine
end

section
/-! PROOFS of the exception statements: a command that ends with an error changes STATUS alone (O39), and a block with no
command left holds its state (O53). -/

namespace Sys2Proof.Machine

/-! ### The commands that end with an error (R136) -/

/-- An operation that ends with an error has discarded the writes it staged: it leaves everything but STATUS (R136, R143). -/
theorem exec_of_status_error {i : Instr} {s t : State} (h : exec i s = .next t) (ht : t.status ≠ statusOk) :
    t = s.setStatus t.status := by
  rcases exec_next_cases h with ⟨u, -, rfl⟩ | ⟨v, -, -, rfl⟩
  · exact absurd (State.setStatus_status u statusOk) ht
  · rw [State.setStatus_status]

/-- Settles O39: a legal word runs its operation on the state that holds the word in CMD, and an illegal word only sets
STATUS there. -/
theorem errorsChangeOnlyStatus : Obligations.ErrorsChangeOnlyStatus := by
  intro w s t h ht
  rcases issueCommand_cases w s with ⟨i, -, hi⟩ | ⟨e, -, hi⟩
  · exact exec_of_status_error (hi.symm.trans h) ht
  · cases hi.symm.trans h
    rfl

/-! ### The block between commands (R151) -/

/-- Settles O53: a legal configuration lets the step run the host's program, which has no entry left. -/
theorem idleHoldsState : Obligations.IdleHoldsState := by
  intro s hc hh
  calc step s = runNextEntry s := if_pos hc
    _ = .next s := by simp only [runNextEntry, hh]

end Sys2Proof.Machine
end
